-- ==== Sys2Proof/Word.lean ====
section
/-! DEFINITION. The word type of the codec core: a byte (20_memory.md R70). The length registers are `ADDR_W` bits wide, a
parameter (00_scope.md R10), and are held as natural numbers below `2^ADDR_W` (log 1). -/

namespace Sys2Proof

/-- One memory cell, one header byte, one literal (R70). -/
abbrev Byte := BitVec 8

end Sys2Proof
end

