-- ==== Sys2Proof/Config.lean ====
section
/-! DEFINITION. What an implementation fixes: the constants of 00_scope.md R9, the parameters of R10 as one argument of the
model (`Params`) with what the spec demands of them (41_code_tables.md R170, R172; 92_eei_decisions.md, "Open parameters"), and
the free values the spec leaves open. The values the spec takes for the parameters stand in Machine/Params.lean. -/

namespace Sys2Proof.Config

/-! ### Fixed constants (R9) -/

/-- `MAXREP`: the longest match the match finder returns. -/
abbrev maxRep : Nat := 516
/-- `MAXLEN`: the longest copy length a stream can carry. -/
abbrev maxLen : Nat := 518
/-- `MINLEN`: the shortest copy length. -/
abbrev minLen : Nat := 2
/-- `NSYM`: entries of the codeword table; index 773 is END. -/
abbrev nSym : Nat := 774
/-- `NBUCKET`: hash buckets of the match finder. -/
abbrev nBucket : Nat := 2304
/-- `CMP_CHUNK`: bytes pulled per round of CMP, and the shift amount. -/
abbrev cmpChunk : Nat := 4096
/-- `LOOKAHEAD`: bytes held back between rounds of CMP. -/
abbrev lookahead : Nat := 516
/-- `OUTB_SIZE`: capacity of the compressor's output staging buffer. -/
abbrev outbSize : Nat := 2048
/-- `INB_SIZE`: capacity of the decompressor's input staging buffer. -/
abbrev inbSize : Nat := 2048
/-- `DEC_FLUSH_AT`: the value of `WPOS` that triggers a flush. -/
abbrev decFlushAt : Nat := 8192
/-- `DEC_HIST`: bytes kept as history at the front of `WIN`, and bytes flushed at a time. -/
abbrev decHist : Nat := 4096
/-- `LEN2_OFF_LIMIT`: a length-2 match needs an offset below this. -/
abbrev len2OffLimit : Nat := 256
/-- `LAZY_T`: the lazy-matching offset threshold. -/
abbrev lazyT : Nat := 128
/-- Cells of `IDX` (R40). -/
abbrev idxSize : Nat := 8707

/-! ### The code tables `T` (R170) -/

/-- The six constant tables of R170: class `i` of the length code, class `c` of the offset code. -/
structure CodeTables where
  lenBits  : List Nat
  lenCode  : List Nat
  lenExtra : List Nat
  lenBase  : List Nat
  distBits : List Nat
  distCode : List Nat
  deriving DecidableEq, Repr

/-- How many classes `j` have a code that the 8-bit pattern `x` begins with, read LSB first (R172 W2, W3). -/
def classesMatching (bits codes : List Nat) (x : Nat) : Nat :=
  ((bits.zip codes).filter fun p => x % 2 ^ p.1 == p.2).length

/-- W2 and W3 of R172: for every 8-bit pattern exactly one class code fits. -/
def completeCode (bits codes : List Nat) : Bool :=
  (List.range 256).all fun x => classesMatching bits codes x == 1

/-- W4 of R172: the classes tile the length symbols `0 .. 517` in order. -/
def tiles (base extra : List Nat) (at_ : Nat) : Bool :=
  match base, extra with
  | [], [] => at_ == 518
  | b :: bs, e :: es => b == at_ && tiles bs es (at_ + 2 ^ e)
  | _, _ => false

/-- R172, W1 to W5 together with the cell counts of R170. -/
def CodeTables.wf (t : CodeTables) : Bool :=
  t.lenBits.length == 16 && t.lenCode.length == 16 && t.lenExtra.length == 16 && t.lenBase.length == 16 &&
  t.distBits.length == 64 && t.distCode.length == 64 &&
  t.lenBits.all (fun n => 1 ≤ n && n ≤ 8) && t.distBits.all (fun n => 1 ≤ n && n ≤ 8) &&
  t.lenExtra.all (fun n => n ≤ 8) &&
  (t.lenBits.zip t.lenCode).all (fun p => p.2 < 2 ^ p.1) &&
  (t.distBits.zip t.distCode).all (fun p => p.2 < 2 ^ p.1) &&
  completeCode t.lenBits t.lenCode && completeCode t.distBits t.distCode &&
  tiles t.lenBase t.lenExtra 0 &&
  (t.lenBits.zip t.lenExtra).all (fun p => 1 + p.1 + p.2 ≤ 16)

/-! ### The parameters (R10) -/

/-- The parameters the source leaves to the implementation, "each a named argument of the model" (R10, R43). Every operation of
the machine that depends on one takes them as its argument. -/
structure Params where
  /-- `T`, the six code tables -/
  tables     : CodeTables
  /-- `LAZY_DEFER(L0, off0, L1, off1)`, any predicate on four naturals (R212) -/
  lazyDefer  : Nat → Nat → Nat → Nat → Bool
  /-- `ADDR_W`, the width of the length registers and of the cursors over the host buffers -/
  addrW      : Nat
  /-- `DEC_WIN_SIZE`, the cells of `WIN` -/
  decWinSize : Nat

/-- What the spec demands of the parameters: `T` meets R172, `ADDR_W` is at least 13, `DEC_WIN_SIZE` at least 8709
(92_eei_decisions.md, "Open parameters in one place"). -/
def Params.wf (P : Params) : Bool := P.tables.wf && decide (13 ≤ P.addrW) && decide (8709 ≤ P.decWinSize)

/-! ### Free values -/

/-- FREE VALUE: what `ARG_OUT_CAP` holds after the `n`-th failed command, of which the register keeps the low `ADDR_W` bits
(45_transfer_harness.md R297, 93_implementation_defined.md U4: "any value"; log 8). Nothing constrains it. -/
opaque failOutCap : Nat → Nat

/-- FREE VALUE: what cell `a` of `HOST_OUT` holds after the `n`-th failed command (93_implementation_defined.md U5: "any
value for every cell of HOST_OUT"; log 9). Nothing constrains it. -/
opaque failHostOut (n a : Nat) : BitVec 8

end Sys2Proof.Config
end

