-- ==== Sys2Proof/Syntax.lean ====
section
/-! DEFINITION. The instructions: one constructor per row of spec/opcode_table.json (30_encoding.md R119). The stream rows are
the pieces of a token: `LIT`, the sixteen length classes (first three fields of a COPY), `END`, the sixty-four offset classes
(fourth and fifth field of a COPY), the two header bytes; the last two are the host's commands. -/

namespace Sys2Proof

/-- The low field of an offset (30_encoding.md R110): 2 bits wide after length 2, else `WSIZE` = 4, 5 or 6 bits. The operand
carries its own width (log 22). -/
inductive Low where
  | w2 (v : BitVec 2)
  | w4 (v : BitVec 4)
  | w5 (v : BitVec 5)
  | w6 (v : BitVec 6)
  deriving DecidableEq, Repr

/-- The instruction set: the 86 rows of the opcode table. The operand of a length row is its extra field, `LEN_EXTRA[i]` bits of
the parameter `T` and so at most 8 (R105, R170); with `T_PKWARE` rows LEN0 to LEN7 have none, and `e` is 0, which is what it is
where it is left out (log 28). -/
inductive Instr where
  /-- LIT `b` (R104, R264). -/
  | lit (b : Byte)
  | len0 (e : Byte := 0)
  | len1 (e : Byte := 0)
  | len2 (e : Byte := 0)
  | len3 (e : Byte := 0)
  | len4 (e : Byte := 0)
  | len5 (e : Byte := 0)
  | len6 (e : Byte := 0)
  | len7 (e : Byte := 0)
  | len8 (e : Byte)
  | len9 (e : Byte)
  | len10 (e : Byte)
  | len11 (e : Byte)
  | len12 (e : Byte)
  | len13 (e : Byte)
  | len14 (e : Byte)
  | len15 (e : Byte)
  /-- END (R108, R266). -/
  | endOfStream
  | dist0 (low : Low)
  | dist1 (low : Low)
  | dist2 (low : Low)
  | dist3 (low : Low)
  | dist4 (low : Low)
  | dist5 (low : Low)
  | dist6 (low : Low)
  | dist7 (low : Low)
  | dist8 (low : Low)
  | dist9 (low : Low)
  | dist10 (low : Low)
  | dist11 (low : Low)
  | dist12 (low : Low)
  | dist13 (low : Low)
  | dist14 (low : Low)
  | dist15 (low : Low)
  | dist16 (low : Low)
  | dist17 (low : Low)
  | dist18 (low : Low)
  | dist19 (low : Low)
  | dist20 (low : Low)
  | dist21 (low : Low)
  | dist22 (low : Low)
  | dist23 (low : Low)
  | dist24 (low : Low)
  | dist25 (low : Low)
  | dist26 (low : Low)
  | dist27 (low : Low)
  | dist28 (low : Low)
  | dist29 (low : Low)
  | dist30 (low : Low)
  | dist31 (low : Low)
  | dist32 (low : Low)
  | dist33 (low : Low)
  | dist34 (low : Low)
  | dist35 (low : Low)
  | dist36 (low : Low)
  | dist37 (low : Low)
  | dist38 (low : Low)
  | dist39 (low : Low)
  | dist40 (low : Low)
  | dist41 (low : Low)
  | dist42 (low : Low)
  | dist43 (low : Low)
  | dist44 (low : Low)
  | dist45 (low : Low)
  | dist46 (low : Low)
  | dist47 (low : Low)
  | dist48 (low : Low)
  | dist49 (low : Low)
  | dist50 (low : Low)
  | dist51 (low : Low)
  | dist52 (low : Low)
  | dist53 (low : Low)
  | dist54 (low : Low)
  | dist55 (low : Low)
  | dist56 (low : Low)
  | dist57 (low : Low)
  | dist58 (low : Low)
  | dist59 (low : Low)
  | dist60 (low : Low)
  | dist61 (low : Low)
  | dist62 (low : Low)
  | dist63 (low : Low)
  /-- HDR0: stream byte 0, `LITMODE` (R101, R262). -/
  | hdr0 (b : Byte)
  /-- HDR1: stream byte 1, `WSIZE` (R102, R262). -/
  | hdr1 (w : Byte)
  /-- COMPRESS: `CMD` = 1 (R230). -/
  | compress
  /-- DECOMPRESS: `CMD` = 2 (R260). -/
  | decompress
  deriving DecidableEq, Repr

end Sys2Proof
end

