-- ==== Sys2Proof/WellFormed.lean ====
section
/-! DEFINITION. Well-formed instructions: those the opcode table has an encoding for. Four checks: the extra value of a length
row fits the `LEN_EXTRA[i]` bits of its field (30_encoding.md R105, R106); the value that is symbol 517 is END and no length
(R106, R108); header byte 0 is 0 (R101); header byte 1 is 4, 5 or 6 (R102). Every other operand is of its field's width by its
type. -/

namespace Sys2Proof

/-- Has length class `i` of `T` the extra value `e`, and is it a copy length rather than END (R106, R108)? -/
def lengthRowWf (T : Config.CodeTables) (i e : Nat) : Bool :=
  decide (e < 2 ^ T.lenExtra.getD i 0) && T.lenBase.getD i 0 + e != 517

/-- Does the opcode table have a row and operand for this term? A header byte it has none for is still an instruction the
machine executes: it takes the exception of 44_decompressor.md R262 (log 23). -/
def Instr.wf (T : Config.CodeTables) (i : Instr) : Bool :=
  match i with
  | .lit _ => true
  | .len0 e => lengthRowWf T 0 e.toNat
  | .len1 e => lengthRowWf T 1 e.toNat
  | .len2 e => lengthRowWf T 2 e.toNat
  | .len3 e => lengthRowWf T 3 e.toNat
  | .len4 e => lengthRowWf T 4 e.toNat
  | .len5 e => lengthRowWf T 5 e.toNat
  | .len6 e => lengthRowWf T 6 e.toNat
  | .len7 e => lengthRowWf T 7 e.toNat
  | .len8 e => lengthRowWf T 8 e.toNat
  | .len9 e => lengthRowWf T 9 e.toNat
  | .len10 e => lengthRowWf T 10 e.toNat
  | .len11 e => lengthRowWf T 11 e.toNat
  | .len12 e => lengthRowWf T 12 e.toNat
  | .len13 e => lengthRowWf T 13 e.toNat
  | .len14 e => lengthRowWf T 14 e.toNat
  | .len15 e => lengthRowWf T 15 e.toNat
  | .endOfStream => true
  | .dist0 _ => true
  | .dist1 _ => true
  | .dist2 _ => true
  | .dist3 _ => true
  | .dist4 _ => true
  | .dist5 _ => true
  | .dist6 _ => true
  | .dist7 _ => true
  | .dist8 _ => true
  | .dist9 _ => true
  | .dist10 _ => true
  | .dist11 _ => true
  | .dist12 _ => true
  | .dist13 _ => true
  | .dist14 _ => true
  | .dist15 _ => true
  | .dist16 _ => true
  | .dist17 _ => true
  | .dist18 _ => true
  | .dist19 _ => true
  | .dist20 _ => true
  | .dist21 _ => true
  | .dist22 _ => true
  | .dist23 _ => true
  | .dist24 _ => true
  | .dist25 _ => true
  | .dist26 _ => true
  | .dist27 _ => true
  | .dist28 _ => true
  | .dist29 _ => true
  | .dist30 _ => true
  | .dist31 _ => true
  | .dist32 _ => true
  | .dist33 _ => true
  | .dist34 _ => true
  | .dist35 _ => true
  | .dist36 _ => true
  | .dist37 _ => true
  | .dist38 _ => true
  | .dist39 _ => true
  | .dist40 _ => true
  | .dist41 _ => true
  | .dist42 _ => true
  | .dist43 _ => true
  | .dist44 _ => true
  | .dist45 _ => true
  | .dist46 _ => true
  | .dist47 _ => true
  | .dist48 _ => true
  | .dist49 _ => true
  | .dist50 _ => true
  | .dist51 _ => true
  | .dist52 _ => true
  | .dist53 _ => true
  | .dist54 _ => true
  | .dist55 _ => true
  | .dist56 _ => true
  | .dist57 _ => true
  | .dist58 _ => true
  | .dist59 _ => true
  | .dist60 _ => true
  | .dist61 _ => true
  | .dist62 _ => true
  | .dist63 _ => true
  | .hdr0 b => b == 0
  | .hdr1 v => v == 4 || v == 5 || v == 6
  | .compress => true
  | .decompress => true

end Sys2Proof
end

