-- ==== Sys2Proof/Decode.lean ====
section
/-! DEFINITION. Decoding and encoding, for any code tables `T`: the bit-field helpers of 00_scope.md R12, the decoder from stream
bits to an instruction (30_encoding.md R114, R119), the encoder (R104 to R112), and the default tables `T_PKWARE`
(41_code_tables.md R171) the opcode table is written with. Bits are lists in stream order: bit 0 of a codeword first (R12, R71). -/

namespace Sys2Proof

/-! ### Bit fields (R12, R71) -/

/-- `lowbits(v, n)`: the low `n` bits of `v` (R12). -/
def lowbits (v n : Nat) : Nat := v % 2 ^ n

/-- The `n` low bits of `v` in stream order, bit 0 first (R12, R71). -/
def bitsOfNat : Nat → Nat → List Bool
  | 0, _ => []
  | n + 1, v => (v % 2 == 1) :: bitsOfNat n (v / 2)

/-- The number whose bit `i` is the `i`-th bit of the list (R12, R71). -/
def natOfBits : List Bool → Nat
  | [] => 0
  | b :: bs => b.toNat + 2 * natOfBits bs

/-- Stream bits of a list of stream bytes, LSB first in each byte (R71). -/
def bitsOfBytes : List Byte → List Bool
  | [] => []
  | b :: bs => bitsOfNat 8 b.toNat ++ bitsOfBytes bs

/-- The next `k` bits as a number and the rest; none where fewer than `k` are left (R154). -/
def takeBits (k : Nat) (bits : List Bool) : Option (Nat × List Bool) :=
  if bits.length < k then none else some (natOfBits (bits.take k), bits.drop k)

/-- The next `k` bits as a number, zero-filled past the end (R153). -/
def peekBits (k : Nat) (bits : List Bool) : Nat := natOfBits (bits.take k)

/-! ### The code tables (R170, R171) -/

/-- `T_PKWARE`, the default tables of R171 (PRESUMED, as the spec marks them: from general knowledge; log 2). -/
def tPkware : Config.CodeTables where
  lenBits  := [3, 2, 3, 3, 4, 4, 4, 5, 5, 5, 5, 6, 6, 6, 7, 7]
  lenCode  := [0x05, 0x03, 0x01, 0x06, 0x0A, 0x02, 0x0C, 0x14, 0x04, 0x18, 0x08, 0x30, 0x10, 0x20, 0x40, 0x00]
  lenExtra := [0, 0, 0, 0, 0, 0, 0, 0, 1, 2, 3, 4, 5, 6, 7, 8]
  lenBase  := [0, 1, 2, 3, 4, 5, 6, 7, 8, 10, 14, 22, 38, 70, 134, 262]
  distBits := [
    2, 4, 4, 5, 5, 5, 5, 6, 6, 6, 6, 6, 6, 6, 6, 6,
    6, 6, 6, 6, 6, 6, 7, 7, 7, 7, 7, 7, 7, 7, 7, 7,
    7, 7, 7, 7, 7, 7, 7, 7, 7, 7, 7, 7, 7, 7, 7, 7,
    8, 8, 8, 8, 8, 8, 8, 8, 8, 8, 8, 8, 8, 8, 8, 8]
  distCode := [
    0x03, 0x0D, 0x05, 0x19, 0x09, 0x11, 0x01, 0x3E, 0x1E, 0x2E, 0x0E, 0x36, 0x16, 0x26, 0x06, 0x3A,
    0x1A, 0x2A, 0x0A, 0x32, 0x12, 0x22, 0x42, 0x02, 0x7C, 0x3C, 0x5C, 0x1C, 0x6C, 0x2C, 0x4C, 0x0C,
    0x74, 0x34, 0x54, 0x14, 0x64, 0x24, 0x44, 0x04, 0x78, 0x38, 0x58, 0x18, 0x68, 0x28, 0x48, 0x08,
    0xF0, 0x70, 0xB0, 0x30, 0xD0, 0x50, 0x90, 0x10, 0xE0, 0x60, 0xA0, 0x20, 0xC0, 0x40, 0x80, 0x00]

/-- `LEN_BITS[i]`. -/
def lenBits (T : Config.CodeTables) (i : Nat) : Nat := T.lenBits.getD i 0
/-- `LEN_CODE[i]`. -/
def lenCode (T : Config.CodeTables) (i : Nat) : Nat := T.lenCode.getD i 0
/-- `LEN_EXTRA[i]`. -/
def lenExtra (T : Config.CodeTables) (i : Nat) : Nat := T.lenExtra.getD i 0
/-- `LEN_BASE[i]`. -/
def lenBase (T : Config.CodeTables) (i : Nat) : Nat := T.lenBase.getD i 0
/-- `DIST_BITS[c]`. -/
def distBits (T : Config.CodeTables) (c : Nat) : Nat := T.distBits.getD c 0
/-- `DIST_CODE[c]`. -/
def distCode (T : Config.CodeTables) (c : Nat) : Nat := T.distCode.getD c 0

/-- The first class, counted from `i`, whose code the pattern `x` begins with (R179): the meaning of a jump-table cell. -/
def classOf : List Nat → List Nat → Nat → Nat → Option Nat
  | n :: ns, c :: cs, x, i => if lowbits x n = c then some i else classOf ns cs x (i + 1)
  | _, _, _, _ => none

/-- The length class of the next 8 bits `x` (R179). -/
def lenClass (T : Config.CodeTables) (x : Nat) : Option Nat := classOf T.lenBits T.lenCode x 0

/-- The offset class of the next 8 bits `x` (R179). -/
def distClass (T : Config.CodeTables) (x : Nat) : Option Nat := classOf T.distBits T.distCode x 0

/-! ### Operand forms -/

/-- The width of a low field: `lw` of R110. -/
def Low.width (l : Low) : Nat :=
  match l with
  | .w2 _ => 2
  | .w4 _ => 4
  | .w5 _ => 5
  | .w6 _ => 6

/-- The value of a low field. -/
def Low.val (l : Low) : Nat :=
  match l with
  | .w2 v => v.toNat
  | .w4 v => v.toNat
  | .w5 v => v.toNat
  | .w6 v => v.toNat

/-- The low field of width `lw` that holds `v`; there are four widths (R110). -/
def lowOf (lw v : Nat) : Option Low :=
  match lw with
  | 2 => some (.w2 (BitVec.ofNat 2 v))
  | 4 => some (.w4 (BitVec.ofNat 4 v))
  | 5 => some (.w5 (BitVec.ofNat 5 v))
  | 6 => some (.w6 (BitVec.ofNat 6 v))
  | _ => none

/-- The row of length class `i` with extra value `e`; the symbol 517 is END (R106, R108). -/
def lenInstr (T : Config.CodeTables) (i e : Nat) : Option Instr :=
  if lenBase T i + e = 517 then some .endOfStream
  else
    match i with
    | 0 => some (.len0 (BitVec.ofNat 8 e))
    | 1 => some (.len1 (BitVec.ofNat 8 e))
    | 2 => some (.len2 (BitVec.ofNat 8 e))
    | 3 => some (.len3 (BitVec.ofNat 8 e))
    | 4 => some (.len4 (BitVec.ofNat 8 e))
    | 5 => some (.len5 (BitVec.ofNat 8 e))
    | 6 => some (.len6 (BitVec.ofNat 8 e))
    | 7 => some (.len7 (BitVec.ofNat 8 e))
    | 8 => some (.len8 (BitVec.ofNat 8 e))
    | 9 => some (.len9 (BitVec.ofNat 8 e))
    | 10 => some (.len10 (BitVec.ofNat 8 e))
    | 11 => some (.len11 (BitVec.ofNat 8 e))
    | 12 => some (.len12 (BitVec.ofNat 8 e))
    | 13 => some (.len13 (BitVec.ofNat 8 e))
    | 14 => some (.len14 (BitVec.ofNat 8 e))
    | 15 => some (.len15 (BitVec.ofNat 8 e))
    | _ => none

/-- The row of offset class `c` with the given low field (R111). -/
def distInstr (c : Nat) (low : Low) : Option Instr :=
  match c with
  | 0 => some (.dist0 low)
  | 1 => some (.dist1 low)
  | 2 => some (.dist2 low)
  | 3 => some (.dist3 low)
  | 4 => some (.dist4 low)
  | 5 => some (.dist5 low)
  | 6 => some (.dist6 low)
  | 7 => some (.dist7 low)
  | 8 => some (.dist8 low)
  | 9 => some (.dist9 low)
  | 10 => some (.dist10 low)
  | 11 => some (.dist11 low)
  | 12 => some (.dist12 low)
  | 13 => some (.dist13 low)
  | 14 => some (.dist14 low)
  | 15 => some (.dist15 low)
  | 16 => some (.dist16 low)
  | 17 => some (.dist17 low)
  | 18 => some (.dist18 low)
  | 19 => some (.dist19 low)
  | 20 => some (.dist20 low)
  | 21 => some (.dist21 low)
  | 22 => some (.dist22 low)
  | 23 => some (.dist23 low)
  | 24 => some (.dist24 low)
  | 25 => some (.dist25 low)
  | 26 => some (.dist26 low)
  | 27 => some (.dist27 low)
  | 28 => some (.dist28 low)
  | 29 => some (.dist29 low)
  | 30 => some (.dist30 low)
  | 31 => some (.dist31 low)
  | 32 => some (.dist32 low)
  | 33 => some (.dist33 low)
  | 34 => some (.dist34 low)
  | 35 => some (.dist35 low)
  | 36 => some (.dist36 low)
  | 37 => some (.dist37 low)
  | 38 => some (.dist38 low)
  | 39 => some (.dist39 low)
  | 40 => some (.dist40 low)
  | 41 => some (.dist41 low)
  | 42 => some (.dist42 low)
  | 43 => some (.dist43 low)
  | 44 => some (.dist44 low)
  | 45 => some (.dist45 low)
  | 46 => some (.dist46 low)
  | 47 => some (.dist47 low)
  | 48 => some (.dist48 low)
  | 49 => some (.dist49 low)
  | 50 => some (.dist50 low)
  | 51 => some (.dist51 low)
  | 52 => some (.dist52 low)
  | 53 => some (.dist53 low)
  | 54 => some (.dist54 low)
  | 55 => some (.dist55 low)
  | 56 => some (.dist56 low)
  | 57 => some (.dist57 low)
  | 58 => some (.dist58 low)
  | 59 => some (.dist59 low)
  | 60 => some (.dist60 low)
  | 61 => some (.dist61 low)
  | 62 => some (.dist62 low)
  | 63 => some (.dist63 low)
  | _ => none

/-- Length class and extra value of a `LEN` row or of END, none for the other rows. -/
def Instr.lenParts (T : Config.CodeTables) (i : Instr) : Option (Nat × Nat) :=
  match i with
  | .lit _ => none
  | .len0 e => some (0, e.toNat)
  | .len1 e => some (1, e.toNat)
  | .len2 e => some (2, e.toNat)
  | .len3 e => some (3, e.toNat)
  | .len4 e => some (4, e.toNat)
  | .len5 e => some (5, e.toNat)
  | .len6 e => some (6, e.toNat)
  | .len7 e => some (7, e.toNat)
  | .len8 e => some (8, e.toNat)
  | .len9 e => some (9, e.toNat)
  | .len10 e => some (10, e.toNat)
  | .len11 e => some (11, e.toNat)
  | .len12 e => some (12, e.toNat)
  | .len13 e => some (13, e.toNat)
  | .len14 e => some (14, e.toNat)
  | .len15 e => some (15, e.toNat)
  | .endOfStream => some (15, 517 - lenBase T 15)
  | .dist0 _ => none
  | .dist1 _ => none
  | .dist2 _ => none
  | .dist3 _ => none
  | .dist4 _ => none
  | .dist5 _ => none
  | .dist6 _ => none
  | .dist7 _ => none
  | .dist8 _ => none
  | .dist9 _ => none
  | .dist10 _ => none
  | .dist11 _ => none
  | .dist12 _ => none
  | .dist13 _ => none
  | .dist14 _ => none
  | .dist15 _ => none
  | .dist16 _ => none
  | .dist17 _ => none
  | .dist18 _ => none
  | .dist19 _ => none
  | .dist20 _ => none
  | .dist21 _ => none
  | .dist22 _ => none
  | .dist23 _ => none
  | .dist24 _ => none
  | .dist25 _ => none
  | .dist26 _ => none
  | .dist27 _ => none
  | .dist28 _ => none
  | .dist29 _ => none
  | .dist30 _ => none
  | .dist31 _ => none
  | .dist32 _ => none
  | .dist33 _ => none
  | .dist34 _ => none
  | .dist35 _ => none
  | .dist36 _ => none
  | .dist37 _ => none
  | .dist38 _ => none
  | .dist39 _ => none
  | .dist40 _ => none
  | .dist41 _ => none
  | .dist42 _ => none
  | .dist43 _ => none
  | .dist44 _ => none
  | .dist45 _ => none
  | .dist46 _ => none
  | .dist47 _ => none
  | .dist48 _ => none
  | .dist49 _ => none
  | .dist50 _ => none
  | .dist51 _ => none
  | .dist52 _ => none
  | .dist53 _ => none
  | .dist54 _ => none
  | .dist55 _ => none
  | .dist56 _ => none
  | .dist57 _ => none
  | .dist58 _ => none
  | .dist59 _ => none
  | .dist60 _ => none
  | .dist61 _ => none
  | .dist62 _ => none
  | .dist63 _ => none
  | .hdr0 _ => none
  | .hdr1 _ => none
  | .compress => none
  | .decompress => none

/-- Offset class and low field of a `DIST` row, none for the other rows. -/
def Instr.distParts (i : Instr) : Option (Nat × Low) :=
  match i with
  | .lit _ => none
  | .len0 _ => none
  | .len1 _ => none
  | .len2 _ => none
  | .len3 _ => none
  | .len4 _ => none
  | .len5 _ => none
  | .len6 _ => none
  | .len7 _ => none
  | .len8 _ => none
  | .len9 _ => none
  | .len10 _ => none
  | .len11 _ => none
  | .len12 _ => none
  | .len13 _ => none
  | .len14 _ => none
  | .len15 _ => none
  | .endOfStream => none
  | .dist0 low => some (0, low)
  | .dist1 low => some (1, low)
  | .dist2 low => some (2, low)
  | .dist3 low => some (3, low)
  | .dist4 low => some (4, low)
  | .dist5 low => some (5, low)
  | .dist6 low => some (6, low)
  | .dist7 low => some (7, low)
  | .dist8 low => some (8, low)
  | .dist9 low => some (9, low)
  | .dist10 low => some (10, low)
  | .dist11 low => some (11, low)
  | .dist12 low => some (12, low)
  | .dist13 low => some (13, low)
  | .dist14 low => some (14, low)
  | .dist15 low => some (15, low)
  | .dist16 low => some (16, low)
  | .dist17 low => some (17, low)
  | .dist18 low => some (18, low)
  | .dist19 low => some (19, low)
  | .dist20 low => some (20, low)
  | .dist21 low => some (21, low)
  | .dist22 low => some (22, low)
  | .dist23 low => some (23, low)
  | .dist24 low => some (24, low)
  | .dist25 low => some (25, low)
  | .dist26 low => some (26, low)
  | .dist27 low => some (27, low)
  | .dist28 low => some (28, low)
  | .dist29 low => some (29, low)
  | .dist30 low => some (30, low)
  | .dist31 low => some (31, low)
  | .dist32 low => some (32, low)
  | .dist33 low => some (33, low)
  | .dist34 low => some (34, low)
  | .dist35 low => some (35, low)
  | .dist36 low => some (36, low)
  | .dist37 low => some (37, low)
  | .dist38 low => some (38, low)
  | .dist39 low => some (39, low)
  | .dist40 low => some (40, low)
  | .dist41 low => some (41, low)
  | .dist42 low => some (42, low)
  | .dist43 low => some (43, low)
  | .dist44 low => some (44, low)
  | .dist45 low => some (45, low)
  | .dist46 low => some (46, low)
  | .dist47 low => some (47, low)
  | .dist48 low => some (48, low)
  | .dist49 low => some (49, low)
  | .dist50 low => some (50, low)
  | .dist51 low => some (51, low)
  | .dist52 low => some (52, low)
  | .dist53 low => some (53, low)
  | .dist54 low => some (54, low)
  | .dist55 low => some (55, low)
  | .dist56 low => some (56, low)
  | .dist57 low => some (57, low)
  | .dist58 low => some (58, low)
  | .dist59 low => some (59, low)
  | .dist60 low => some (60, low)
  | .dist61 low => some (61, low)
  | .dist62 low => some (62, low)
  | .dist63 low => some (63, low)
  | .hdr0 _ => none
  | .hdr1 _ => none
  | .compress => none
  | .decompress => none

/-! ### The decoder (R103 to R114, R119) -/

/-- Where in the machine's life a bit string stands: the same bits are different rows in different places (R114, R119). -/
inductive Ctx where
  /-- the 2 bits written to `CMD` (R116) -/
  | command
  /-- stream byte 0 -/
  | header0
  /-- stream byte 1 -/
  | header1
  /-- at the selector bit of a token -/
  | token
  /-- after a length codeword other than END's, with low fields of `lw` bits -/
  | offset (lw : Nat)
  deriving DecidableEq, Repr

/-- Why a bit string is no instruction. -/
inductive Reject where
  /-- `CMD` = 0 is no command (R116). -/
  | noCommand
  /-- `CMD` = 3 is reserved (R116, R296). -/
  | reservedCommand
  /-- The input ends inside the instruction (R115, R154). -/
  | starved
  /-- No class code fits; it cannot happen with a well-formed `T` (R172). -/
  | noClass
  /-- The low field's width is none of 2, 4, 5, 6 (R110). -/
  | badLowWidth
  deriving DecidableEq, Repr

/-- A header byte: 8 bits (R101, R102). -/
def decodeByte (mk : Byte → Instr) (bits : List Bool) : Except Reject (Instr × List Bool) :=
  match takeBits 8 bits with
  | none => .error .starved
  | some (b, rest) => .ok (mk (BitVec.ofNat 8 b), rest)

/-- After selector 1: the length class by the next 8 bits, its code, its extra bits (R105 to R108, R114). -/
def decodeLength (T : Config.CodeTables) (bits : List Bool) : Except Reject (Instr × List Bool) :=
  match lenClass T (peekBits 8 bits) with
  | none => .error .noClass
  | some i =>
    match takeBits (lenBits T i) bits with
    | none => .error .starved
    | some (_, rest) =>
      match takeBits (lenExtra T i) rest with
      | none => .error .starved
      | some (e, rest') =>
        match lenInstr T i e with
        | none => .error .noClass
        | some ins => .ok (ins, rest')

/-- The offset class by the next 8 bits, its code, the low field (R110 to R112, R114). -/
def decodeOffset (T : Config.CodeTables) (lw : Nat) (bits : List Bool) : Except Reject (Instr × List Bool) :=
  match distClass T (peekBits 8 bits) with
  | none => .error .noClass
  | some c =>
    match takeBits (distBits T c) bits with
    | none => .error .starved
    | some (_, rest) =>
      match takeBits lw rest with
      | none => .error .starved
      | some (v, rest') =>
        match (lowOf lw v).bind (distInstr c) with
        | none => .error .badLowWidth
        | some ins => .ok (ins, rest')

/-- A token's first row: selector 0 is LIT and its byte, selector 1 a length row or END (R103, R104). -/
def decodeToken (T : Config.CodeTables) (bits : List Bool) : Except Reject (Instr × List Bool) :=
  match bits with
  | [] => .error .starved
  | false :: rest => decodeByte .lit rest
  | true :: rest => decodeLength T rest

/-- The command register (R116). -/
def decodeCommand (bits : List Bool) : Except Reject (Instr × List Bool) :=
  match takeBits 2 bits with
  | none => .error .starved
  | some (v, rest) =>
    match v with
    | 0 => .error .noCommand
    | 1 => .ok (.compress, rest)
    | 2 => .ok (.decompress, rest)
    | _ => .error .reservedCommand

/-- The decoder: total on any bits, the instruction and the bits after it, or the reason there is none. -/
def decode (T : Config.CodeTables) (ctx : Ctx) (bits : List Bool) : Except Reject (Instr × List Bool) :=
  match ctx with
  | .command => decodeCommand bits
  | .header0 => decodeByte .hdr0 bits
  | .header1 => decodeByte .hdr1 bits
  | .token => decodeToken T bits
  | .offset lw => decodeOffset T lw bits

/-! ### The encoder (R101, R102, R104, R107, R108, R112, R116) -/

/-- A length codeword: selector 1, class code, extra bits (R107). -/
def encodeLength (T : Config.CodeTables) (i e : Nat) : List Bool :=
  true :: (bitsOfNat (lenBits T i) (lenCode T i) ++ bitsOfNat (lenExtra T i) e)

/-- An offset codeword: class code, low field (R112). -/
def encodeOffset (T : Config.CodeTables) (c : Nat) (low : Low) : List Bool :=
  bitsOfNat (distBits T c) (distCode T c) ++ bitsOfNat low.width low.val

/-- The bits of an instruction in stream order. -/
def encode (T : Config.CodeTables) (i : Instr) : List Bool :=
  match i with
  | .lit b => false :: bitsOfNat 8 b.toNat
  | .len0 e => encodeLength T 0 e.toNat
  | .len1 e => encodeLength T 1 e.toNat
  | .len2 e => encodeLength T 2 e.toNat
  | .len3 e => encodeLength T 3 e.toNat
  | .len4 e => encodeLength T 4 e.toNat
  | .len5 e => encodeLength T 5 e.toNat
  | .len6 e => encodeLength T 6 e.toNat
  | .len7 e => encodeLength T 7 e.toNat
  | .len8 e => encodeLength T 8 e.toNat
  | .len9 e => encodeLength T 9 e.toNat
  | .len10 e => encodeLength T 10 e.toNat
  | .len11 e => encodeLength T 11 e.toNat
  | .len12 e => encodeLength T 12 e.toNat
  | .len13 e => encodeLength T 13 e.toNat
  | .len14 e => encodeLength T 14 e.toNat
  | .len15 e => encodeLength T 15 e.toNat
  | .endOfStream => encodeLength T 15 (517 - lenBase T 15)
  | .dist0 low => encodeOffset T 0 low
  | .dist1 low => encodeOffset T 1 low
  | .dist2 low => encodeOffset T 2 low
  | .dist3 low => encodeOffset T 3 low
  | .dist4 low => encodeOffset T 4 low
  | .dist5 low => encodeOffset T 5 low
  | .dist6 low => encodeOffset T 6 low
  | .dist7 low => encodeOffset T 7 low
  | .dist8 low => encodeOffset T 8 low
  | .dist9 low => encodeOffset T 9 low
  | .dist10 low => encodeOffset T 10 low
  | .dist11 low => encodeOffset T 11 low
  | .dist12 low => encodeOffset T 12 low
  | .dist13 low => encodeOffset T 13 low
  | .dist14 low => encodeOffset T 14 low
  | .dist15 low => encodeOffset T 15 low
  | .dist16 low => encodeOffset T 16 low
  | .dist17 low => encodeOffset T 17 low
  | .dist18 low => encodeOffset T 18 low
  | .dist19 low => encodeOffset T 19 low
  | .dist20 low => encodeOffset T 20 low
  | .dist21 low => encodeOffset T 21 low
  | .dist22 low => encodeOffset T 22 low
  | .dist23 low => encodeOffset T 23 low
  | .dist24 low => encodeOffset T 24 low
  | .dist25 low => encodeOffset T 25 low
  | .dist26 low => encodeOffset T 26 low
  | .dist27 low => encodeOffset T 27 low
  | .dist28 low => encodeOffset T 28 low
  | .dist29 low => encodeOffset T 29 low
  | .dist30 low => encodeOffset T 30 low
  | .dist31 low => encodeOffset T 31 low
  | .dist32 low => encodeOffset T 32 low
  | .dist33 low => encodeOffset T 33 low
  | .dist34 low => encodeOffset T 34 low
  | .dist35 low => encodeOffset T 35 low
  | .dist36 low => encodeOffset T 36 low
  | .dist37 low => encodeOffset T 37 low
  | .dist38 low => encodeOffset T 38 low
  | .dist39 low => encodeOffset T 39 low
  | .dist40 low => encodeOffset T 40 low
  | .dist41 low => encodeOffset T 41 low
  | .dist42 low => encodeOffset T 42 low
  | .dist43 low => encodeOffset T 43 low
  | .dist44 low => encodeOffset T 44 low
  | .dist45 low => encodeOffset T 45 low
  | .dist46 low => encodeOffset T 46 low
  | .dist47 low => encodeOffset T 47 low
  | .dist48 low => encodeOffset T 48 low
  | .dist49 low => encodeOffset T 49 low
  | .dist50 low => encodeOffset T 50 low
  | .dist51 low => encodeOffset T 51 low
  | .dist52 low => encodeOffset T 52 low
  | .dist53 low => encodeOffset T 53 low
  | .dist54 low => encodeOffset T 54 low
  | .dist55 low => encodeOffset T 55 low
  | .dist56 low => encodeOffset T 56 low
  | .dist57 low => encodeOffset T 57 low
  | .dist58 low => encodeOffset T 58 low
  | .dist59 low => encodeOffset T 59 low
  | .dist60 low => encodeOffset T 60 low
  | .dist61 low => encodeOffset T 61 low
  | .dist62 low => encodeOffset T 62 low
  | .dist63 low => encodeOffset T 63 low
  | .hdr0 b => bitsOfNat 8 b.toNat
  | .hdr1 w => bitsOfNat 8 w.toNat
  | .compress => bitsOfNat 2 1
  | .decompress => bitsOfNat 2 2

/-- Where an instruction stands (R119). -/
def Instr.ctx (i : Instr) : Ctx :=
  match i with
  | .lit _ => .token
  | .len0 _ => .token
  | .len1 _ => .token
  | .len2 _ => .token
  | .len3 _ => .token
  | .len4 _ => .token
  | .len5 _ => .token
  | .len6 _ => .token
  | .len7 _ => .token
  | .len8 _ => .token
  | .len9 _ => .token
  | .len10 _ => .token
  | .len11 _ => .token
  | .len12 _ => .token
  | .len13 _ => .token
  | .len14 _ => .token
  | .len15 _ => .token
  | .endOfStream => .token
  | .dist0 low => .offset low.width
  | .dist1 low => .offset low.width
  | .dist2 low => .offset low.width
  | .dist3 low => .offset low.width
  | .dist4 low => .offset low.width
  | .dist5 low => .offset low.width
  | .dist6 low => .offset low.width
  | .dist7 low => .offset low.width
  | .dist8 low => .offset low.width
  | .dist9 low => .offset low.width
  | .dist10 low => .offset low.width
  | .dist11 low => .offset low.width
  | .dist12 low => .offset low.width
  | .dist13 low => .offset low.width
  | .dist14 low => .offset low.width
  | .dist15 low => .offset low.width
  | .dist16 low => .offset low.width
  | .dist17 low => .offset low.width
  | .dist18 low => .offset low.width
  | .dist19 low => .offset low.width
  | .dist20 low => .offset low.width
  | .dist21 low => .offset low.width
  | .dist22 low => .offset low.width
  | .dist23 low => .offset low.width
  | .dist24 low => .offset low.width
  | .dist25 low => .offset low.width
  | .dist26 low => .offset low.width
  | .dist27 low => .offset low.width
  | .dist28 low => .offset low.width
  | .dist29 low => .offset low.width
  | .dist30 low => .offset low.width
  | .dist31 low => .offset low.width
  | .dist32 low => .offset low.width
  | .dist33 low => .offset low.width
  | .dist34 low => .offset low.width
  | .dist35 low => .offset low.width
  | .dist36 low => .offset low.width
  | .dist37 low => .offset low.width
  | .dist38 low => .offset low.width
  | .dist39 low => .offset low.width
  | .dist40 low => .offset low.width
  | .dist41 low => .offset low.width
  | .dist42 low => .offset low.width
  | .dist43 low => .offset low.width
  | .dist44 low => .offset low.width
  | .dist45 low => .offset low.width
  | .dist46 low => .offset low.width
  | .dist47 low => .offset low.width
  | .dist48 low => .offset low.width
  | .dist49 low => .offset low.width
  | .dist50 low => .offset low.width
  | .dist51 low => .offset low.width
  | .dist52 low => .offset low.width
  | .dist53 low => .offset low.width
  | .dist54 low => .offset low.width
  | .dist55 low => .offset low.width
  | .dist56 low => .offset low.width
  | .dist57 low => .offset low.width
  | .dist58 low => .offset low.width
  | .dist59 low => .offset low.width
  | .dist60 low => .offset low.width
  | .dist61 low => .offset low.width
  | .dist62 low => .offset low.width
  | .dist63 low => .offset low.width
  | .hdr0 _ => .header0
  | .hdr1 _ => .header1
  | .compress => .command
  | .decompress => .command

/-! ### Words of the opcode table

The table numbers an instruction's bits from 0, the least significant bit of the first byte. It does not say where the word
stands, and the same word is different rows in different places (0x03 is LEN2 at a token and DIST0 after a length), so a
place is chosen for each word (log 14). -/

/-- The place in which a word of the opcode table is read: one byte 1 or 2 is a command; an odd word starts with selector 1,
a token; a word of more than one byte is a token; one byte 0 is header byte 0; any other even byte is an offset codeword
with the 4-bit low field of `WSIZE` = 4. -/
def tableCtx (nbits w : Nat) : Ctx :=
  if 8 < nbits then .token
  else if w = 1 ∨ w = 2 then .command
  else if w % 2 = 1 then .token
  else if w = 0 then .header0
  else .offset 4

/-- The bytes of a table word, the first at the lowest address, zero bits above `nbits` up to 16, the longest instruction. -/
def tableBytes (nbits w : Nat) : List Byte :=
  (List.range ((max nbits 16 + 7) / 8)).map fun k => BitVec.ofNat 8 (lowbits w nbits / 2 ^ (8 * k))

/-- What the decoder reads from a word of the opcode table, whose rows are those of `T_PKWARE` (R119). -/
def decodeTableWord (nbits w : Nat) : Option Instr :=
  match decode tPkware (tableCtx nbits w) (bitsOfBytes (tableBytes nbits w)) with
  | .ok (i, _) => some i
  | .error _ => none

end Sys2Proof
end

