-- ==== Sys2Proof/Machine/State.lean ====
section
/-! DEFINITION. The state of the codec core (10_state.md), its faults and refusals, and the state after power-on reset
(70_reset_and_hazards.md R340). Plain data only. Registers the spec gives as counts, cursors and lengths are naturals
(00_scope.md R11, R16: nothing wraps; log 1); registers it shifts and masks, and the command, status and header registers, are bit
vectors. -/

namespace Sys2Proof.Machine

/-- One of the byte memories of R41: (address, byte) pairs, addresses strictly rising, no byte equal to what an unlisted
address reads as, which is 0 (log 6). -/
abbrev Memory := List Host.Cell

/-- One of the cell memories of R40: cell `i` is the `i`-th entry. -/
abbrev Table := List Nat

/-- A table of `n` cells, each 0. -/
def Table.zeros (n : Nat) : Table := List.replicate n 0

/-- The two engines (00_scope.md R8). -/
inductive Engine where
  | cmp
  | dec
  deriving DecidableEq, Repr

/-- `CSTATE` (R31). -/
inductive CState where
  | idle | staging | analyze | emit | shift | terminate | done | fail
  deriving DecidableEq, Repr

/-- `DSTATE` (R31). -/
inductive DState where
  | idle | header | token | literal | copy | flush | eof | done | fail
  deriving DecidableEq, Repr

/-- The error kinds of 60_exceptions.md R310. -/
inductive ErrKind where
  | unsupportedFormat
  | outputOverflow
  | corruptOrTruncated
  deriving DecidableEq, Repr

/-- The causes of 60_exceptions.md R311, but for NONE. -/
inductive Cause where
  | badLitmode
  | badWsize
  | badWsizeCfg
  | push
  | headerShort
  | starved
  | distBeforeStart
  deriving DecidableEq, Repr

/-- One transfer across the host boundary, with its size (45_transfer_harness.md R300). -/
inductive Transfer where
  | pull (n : Nat)
  | push (n : Nat)
  deriving DecidableEq, Repr

/-- The command and status registers (R33). The two length registers are `ADDR_W` bits wide, a parameter. -/
structure CommandRegs where
  cmd       : BitVec 2
  wsizeCfg  : Byte
  argInLen  : Nat
  argOutCap : Nat
  status    : Byte
  deriving DecidableEq, Repr

/-- The Transfer Context (R32). -/
structure TransferContext where
  inCur    : Nat
  inLen    : Nat
  outCur   : Nat
  outLimit : Nat
  stop     : Bool
  deriving DecidableEq, Repr

/-- The header registers (R34); `DSIZE` is a function of `WSIZE` (log 21). -/
structure HeaderRegs where
  litmode : Byte
  wsize   : Byte
  deriving DecidableEq, Repr

/-- The CMP engine: FSM register (R31), pipeline and match finder (R35), bit writer (R36), tables (R40), memories (R41). -/
structure CmpEngine where
  cstate  : CState
  cur     : Nat
  nload   : Nat
  loadEnd : Nat
  scanEnd : Nat
  ended   : Bool
  round   : Nat
  mLen    : Nat
  mOff    : Nat
  nLen    : Nat
  nOff    : Nat
  nidx    : Nat
  acc     : Byte
  nacc    : Nat
  outPos  : Nat
  cwv     : Table
  cwb     : Table
  htab    : Table
  idx     : Table
  work    : Memory
  outb    : Memory
  deriving DecidableEq, Repr

/-- The DEC engine: FSM register (R31), bit reader (R37), pipeline (R38), tables (R40), memories (R41); the last two fields
are the model's own (log 12): the locals HEADER and COPY_OR_END keep between the steps of their two rows. -/
structure DecEngine where
  dstate   : DState
  bitbuf   : BitVec 16
  nbits    : Nat
  inPos    : Nat
  inFill   : Nat
  inEof    : Bool
  wpos     : Nat
  hist     : Nat
  tLen     : Nat
  tOff     : Nat
  src      : Nat
  lenj     : Table
  distj    : Table
  inb      : Memory
  win      : Memory
  hdrByte0 : Option Byte
  offNext  : Bool
  deriving DecidableEq, Repr

/-- The machine: registers, engines, the two host buffers (R41), and the model's own log of transfers (log 13) and counter
of free values (log 10). -/
structure State where
  cr        : CommandRegs
  tc        : TransferContext
  hdr       : HeaderRegs
  cmp       : CmpEngine
  dec       : DecEngine
  hostIn    : Memory
  hostOut   : Memory
  xfers     : List Transfer
  freeCount : Nat
  deriving DecidableEq, Repr

/-- Why the machine stops. The spec's own exceptions are no faults: they end the command in a next state. Each of these is an
access outside a memory the spec lays out, in a state no run from reset reaches (20_memory.md R79: "a violated bound is a
defect of the model"; log 16). All are safe: the model stops where the spec has no behaviour. -/
inductive Fault where
  /-- An index outside `WORK`: raised by CHOOSE and INDEX_BUILD. Safe. -/
  | workRange
  /-- An index outside `WIN`: raised by LIT, the DIST rows and the two flushes of DEC. Safe. -/
  | winRange
  /-- An index outside `OUTB`: raised by STORE_BYTE, FLUSH_OUTB and FINISH. Safe. -/
  | outbRange
  /-- An index outside `INB`: raised by NEXT_BYTE. Safe. -/
  | inbRange
  /-- A slot outside `IDX`: raised by INDEX_BUILD and FIND_MATCH. Safe. -/
  | idxRange
  /-- `CUR` below the shift amount: raised by SHIFT, whose subtraction the spec guards (R16). Safe. -/
  | cursorRange
  deriving DecidableEq, Repr

/-- Why the model gives a run no meaning (00_scope.md R14, outcome "refused"). -/
inductive Refusal where
  /-- An instruction that has no meaning yet: raised by `exec` alone. Safe. -/
  | notModelled (mnemonic : String)
  /-- `CMD` = 3: raised by the host port and the fetch (45_transfer_harness.md R296: "a model refuses it"). Safe. -/
  | reservedCommand
  /-- A command issued, or a register or buffer written, while `BUSY` = 1: raised by COMPRESS, DECOMPRESS, the host port and
  the fetch (93_implementation_defined.md U8: "refuse"). Safe. -/
  | hostWhileBusy
  /-- `BUSY` = 1 with the commanded engine in no running state: raised by the fetch, in states no run reaches. Safe. -/
  | engineNotRunning
  /-- A field width outside 1..16 for a write or 1..8 for a read: raised by WRITE_BITS, PEEK, CONSUME
  (93_implementation_defined.md U11: "refuse"). Safe. -/
  | fieldWidth
  /-- EMIT_COPY with operands out of range (93_implementation_defined.md U11: "refuse"). Safe. -/
  | copyOperands
  /-- A value of more than `ADDR_W` bits for a length register: raised by the host port (93_implementation_defined.md U19:
  "not representable in ARG_IN_LEN; refuse"). Safe. -/
  | valueTooWide
  /-- Parameters the spec does not define the hardware for: raised by COMPRESS and DECOMPRESS (41_code_tables.md R172: "a model
  given a T that fails a condition refuses the command"; 93_implementation_defined.md U10). Safe. -/
  | illFormedParameters
  /-- A jump-table cell that names no class, or a low field of no width: raised by the fetch, in states no run reaches
  (41_code_tables.md R172). Safe. -/
  | noClass
  deriving DecidableEq, Repr

/-- Power-on (R340): both FSMs idle, `CMD` = 0, `STATUS` = 0. Everything else is unspecified there and takes the value that
log 5 and log 6 name: 0, nothing listed, and `WPOS` = 4096, the only initial value of a constant kind R38 names. -/
def State.reset : State where
  cr := { cmd := 0, wsizeCfg := 0, argInLen := 0, argOutCap := 0, status := 0 }
  tc := { inCur := 0, inLen := 0, outCur := 0, outLimit := 0, stop := false }
  hdr := { litmode := 0, wsize := 0 }
  cmp := {
    cstate := .idle, cur := 0, nload := 0, loadEnd := 0, scanEnd := 0, ended := false, round := 0
    mLen := 0, mOff := 0, nLen := 0, nOff := 0, nidx := 0, acc := 0, nacc := 0, outPos := 0
    cwv := Table.zeros Config.nSym, cwb := Table.zeros Config.nSym
    htab := Table.zeros Config.nBucket, idx := Table.zeros Config.idxSize, work := [], outb := [] }
  dec := {
    dstate := .idle, bitbuf := 0, nbits := 0, inPos := 0, inFill := 0, inEof := false
    wpos := 4096, hist := 0, tLen := 0, tOff := 0, src := 0
    lenj := Table.zeros 256, distj := Table.zeros 256, inb := [], win := [], hdrByte0 := none, offNext := false }
  hostIn := []
  hostOut := []
  xfers := []
  freeCount := 0

end Sys2Proof.Machine
end

