-- ==== Sys2Proof/Machine/Flags.lean ====
section
/-! DEFINITION. The flags (10_state.md R39): the bits and fields of `STATUS` (R33, 60_exceptions.md R310, R311), and the words
COMPLETE and a command start write there. `STOP`, `ENDED` and `IN_EOF` are single bits of the state, set by PUSH, STAGE and
NEXT_BYTE. -/

namespace Sys2Proof.Machine

/-- `STATUS.BUSY`, bit 0. -/
def statusBusy (w : Byte) : Bool := w.getLsbD 0
/-- `STATUS.DONE`, bit 1. -/
def statusDone (w : Byte) : Bool := w.getLsbD 1
/-- `STATUS.SUCCESS`, bit 2. -/
def statusSuccess (w : Byte) : Bool := w.getLsbD 2
/-- `STATUS.ERR`, bits 4:3. -/
def statusErr (w : Byte) : BitVec 2 := w.extractLsb' 3 2
/-- `STATUS.CAUSE`, bits 7:5. -/
def statusCause (w : Byte) : BitVec 3 := w.extractLsb' 5 3

/-- The number of an error kind in `STATUS.ERR` (R310). -/
def errCode (k : ErrKind) : Nat :=
  match k with
  | .unsupportedFormat => 1
  | .outputOverflow => 2
  | .corruptOrTruncated => 3

/-- The number of a cause in `STATUS.CAUSE` (R311). -/
def causeCode (c : Cause) : Nat :=
  match c with
  | .badLitmode => 1
  | .badWsize => 2
  | .badWsizeCfg => 3
  | .push => 4
  | .headerShort => 5
  | .starved => 6
  | .distBeforeStart => 7

/-- The kind each cause belongs to (R311). -/
def causeKind (c : Cause) : ErrKind :=
  match c with
  | .badLitmode => .unsupportedFormat
  | .badWsize => .unsupportedFormat
  | .badWsizeCfg => .unsupportedFormat
  | .push => .outputOverflow
  | .headerShort => .corruptOrTruncated
  | .starved => .corruptOrTruncated
  | .distBeforeStart => .corruptOrTruncated

/-- `STATUS` during a command: `BUSY` = 1, all other bits 0 (R33, R293). -/
def statusStart : Byte := 0x01

/-- `STATUS` after a success: `DONE` = 1, `SUCCESS` = 1, all other bits 0 (R297). -/
def statusOk : Byte := 0x06

/-- `STATUS` after a failure: `DONE` = 1, `SUCCESS` = 0, `ERR` and `CAUSE` as raised (R297, R310, R311). -/
def statusFail (k : ErrKind) (c : Cause) : Byte :=
  BitVec.ofNat 8 (2 + 8 * errCode k + 32 * causeCode c)

/-- Is a command running? -/
def State.busy (s : State) : Bool := statusBusy s.cr.status

end Sys2Proof.Machine
end

