-- ==== Sys2Proof/Machine/Params.lean ====
section
/-! DEFINITION. The values the spec takes for the parameters of the hardware (00_scope.md R10): `T_PKWARE`, the default
`LAZY_DEFER`, `ADDR_W` = 32, `DEC_WIN_SIZE` = 8710; and the one other predicate it records (93_implementation_defined.md U3). Every
operation takes its parameters as an argument; `exec` and `step` are the machine with the values of `standard`. -/

namespace Sys2Proof.Machine

/-- `LAZY_DEFER`, the default of R212 (log 3): the next match is longer, or as long with an offset at most 128 where this
one's is above 128. -/
def lazyDefer (l0 off0 l1 off1 : Nat) : Bool :=
  decide (l0 < l1) || (l1 == l0 && decide (off1 ≤ Config.lazyT) && decide (Config.lazyT < off0))

/-- The alternative predicate of 93_implementation_defined.md U3, an argument the machine can be given instead (log 3). -/
def lazyDeferLegacy (l0 off0 l1 _off1 : Nat) : Bool :=
  decide (l0 < 8) && decide (l0 < l1) && (decide (l0 + 1 < l1) || decide (128 < off0))

/-- The values R10 takes for the parameters (logs 2, 3 and 4). -/
def standard : Config.Params where
  tables     := tPkware
  lazyDefer  := lazyDefer
  addrW      := 32
  decWinSize := 8710

/-- The parameters with the alternative predicate of U3. -/
def legacy : Config.Params := { standard with lazyDefer := lazyDeferLegacy }

end Sys2Proof.Machine
end

