-- ==== Sys2Proof/Machine/Ops.lean ====
section
/-! DEFINITION. Named operations over memories and registers: reading and writing a cell, the byte loops (20_memory.md R74,
R346), PULL and PUSH (45_transfer_harness.md R291, R292), the end of a command in success or by an exception (R297,
60_exceptions.md R316), and the result type every operation of the machine answers with. -/

namespace Sys2Proof.Machine

/-! ### Byte memories -/

/-- Addresses strictly rise from `lo` on, and no listed byte is 0. -/
def Memory.wfFrom (lo : Nat) (m : Memory) : Bool :=
  match m with
  | [] => true
  | (a, b) :: rest => decide (lo ≤ a) && b != 0 && Memory.wfFrom (a + 1) rest

/-- The canonical form of a memory. -/
def Memory.wf (m : Memory) : Bool := Memory.wfFrom 0 m

/-- The byte at address `a`; an unlisted address reads 0 (log 6). -/
def Memory.read (m : Memory) (a : Nat) : Byte :=
  match m with
  | [] => 0
  | (x, b) :: rest => if a = x then b else if a < x then 0 else Memory.read rest a

/-- Write one byte, keeping the canonical form: writing 0 removes the entry. -/
def Memory.write (m : Memory) (a : Nat) (b : Byte) : Memory :=
  match m with
  | [] => if b = 0 then [] else [(a, b)]
  | (x, c) :: rest =>
    if a < x then (if b = 0 then (x, c) :: rest else (a, b) :: (x, c) :: rest)
    else if a = x then (if b = 0 then rest else (a, b) :: rest)
    else (x, c) :: Memory.write rest a b

/-- `n` bytes of `src` from `sa` on, written to `dst` from `da` on, lowest index first: the byte loop of PULL and PUSH (R13
`MemWrite`, R74). -/
def copyCells (src : Memory) (sa : Nat) (dst : Memory) (da : Nat) : Nat → Memory
  | 0 => dst
  | n + 1 => copyCells src (sa + 1) (dst.write da (src.read sa)) (da + 1) n

/-- `n` bytes moved inside one memory from `src` on to `dst` on, lowest index first, each write seen by the next read: the
loop of COPY_EXEC, SHIFT and the slide of `WIN` (R74, R85, R345, R346). -/
def moveBytes (m : Memory) (src dst : Nat) : Nat → Memory
  | 0 => m
  | n + 1 => moveBytes (m.write dst (m.read src)) (src + 1) (dst + 1) n

/-- A list of bytes written from address `a` on, lowest index first (R13 `MemWrite`). -/
def storeBytes (m : Memory) (a : Nat) (bs : List Byte) : Memory :=
  match bs with
  | [] => m
  | b :: rest => storeBytes (m.write a b) (a + 1) rest

/-- `n` bytes from address `a` on, lowest index first (R13 `MemRead`). -/
def loadBytes (m : Memory) (a : Nat) : Nat → List Byte
  | 0 => []
  | n + 1 => m.read a :: loadBytes m (a + 1) n

/-- A memory whose cells `a .. a + n - 1` hold `f` of their address, followed by `tail`. -/
def fillFrom (f : Nat → Byte) (tail : Memory) (a : Nat) : Nat → Memory
  | 0 => tail
  | n + 1 => if f a = 0 then fillFrom f tail (a + 1) n else (a, f a) :: fillFrom f tail (a + 1) n

/-- `m` with its first `n` cells replaced by `f` of their address. -/
def overlay (f : Nat → Byte) (n : Nat) (m : Memory) : Memory :=
  fillFrom f (m.filter fun c => decide (n ≤ c.1)) 0 n

/-! ### Results -/

/-- What an operation answers: a value and the state after it, or an outcome that ends the step at once (an exception taken,
a fault, a refusal). -/
inductive Res (α : Type) where
  | ok (v : α) (s : State)
  | stop (o : Host.Outcome State Fault Refusal)

/-- First `r`, then `f` on its value and state; what ends the step ends the whole. -/
def Res.bind (r : Res α) (f : α → State → Res β) : Res β :=
  match r with
  | .ok v s => f v s
  | .stop o => .stop o

/-- The step's outcome of an operation that answers no value. -/
def Res.outcome (r : Res Unit) : Host.Outcome State Fault Refusal :=
  match r with
  | .ok _ s => .next s
  | .stop o => o

/-- The machine faults. -/
def Res.fault (f : Fault) : Res α := .stop (.fault f)

/-- The model refuses. -/
def Res.refuse (r : Refusal) : Res α := .stop (.refused r)

/-! ### The end of a command -/

/-- `state <- S` for the given engine: its DONE or FAIL state (R13, R31). -/
def State.setEnd (e : Engine) (ok : Bool) (s : State) : State :=
  match e with
  | .cmp => { s with cmp := { s.cmp with cstate := if ok then .done else .fail } }
  | .dec => { s with dec := { s.dec with dstate := if ok then .done else .fail } }

/-- The engine reaches its DONE state and COMPLETE runs (R297): `STATUS` says success, `ARG_OUT_CAP` is `OUT_CUR`, `CMD` is
cleared. -/
def State.complete (e : Engine) (s : State) : State :=
  let t := s.setEnd e true
  { t with cr := { t.cr with cmd := 0, status := statusOk, argOutCap := t.tc.outCur } }

/-- TAKING AN EXCEPTION, the one operation all causes share: FAIL and then COMPLETE (60_exceptions.md R316, R317, R297). The
engine goes to its FAIL state; `STATUS` says failure, kind and cause; `CMD` is cleared; `ARG_OUT_CAP` (U4) and every cell of
`HOST_OUT` (U5) hold free values. No return from it exists (R318). -/
def State.fail (P : Config.Params) (e : Engine) (c : Cause) (s : State) : State :=
  let t := s.setEnd e false
  { t with
    cr := { t.cr with
      cmd := 0, status := statusFail (causeKind c) c, argOutCap := lowbits (Config.failOutCap t.freeCount) P.addrW }
    hostOut := overlay (Config.failHostOut t.freeCount) t.tc.outLimit t.hostOut
    freeCount := t.freeCount + 1 }

/-- `raise Kind(cause)` (R13, R316): the exception is taken and the step ends there. -/
def raise (P : Config.Params) (e : Engine) (c : Cause) (s : State) : Res α := .stop (.next (s.fail P e c))

/-! ### PULL and PUSH -/

/-- How many bytes a pull of at most `max` delivers: as many as are left, up to `max` (R291). -/
def pullCount (s : State) (max : Nat) : Nat := min max (s.tc.inLen - s.tc.inCur)

/-- PULL (R291): the next `pullCount` input bytes go to `m` from `a` on; answers the memory after it and the state with the
cursor moved. -/
def pull (m : Memory) (a max : Nat) (s : State) : Memory × State :=
  let n := pullCount s max
  (copyCells s.hostIn s.tc.inCur m a n,
   { s with tc := { s.tc with inCur := s.tc.inCur + n }, xfers := .pull n :: s.xfers })

/-- PUSH (R292): nothing if `STOP` is set; `STOP` is set and nothing written if the chunk does not fit; else the bytes
`m[a .. a + n)` are appended to `HOST_OUT`. `size` and `f` are the size of `m` and the fault of leaving it. -/
def push (m : Memory) (size : Nat) (f : Fault) (a n : Nat) (s : State) : Res Unit :=
  if s.tc.stop then .ok () s
  else if size < a + n then .fault f
  else if s.tc.outLimit < s.tc.outCur + n then .ok () { s with tc := { s.tc with stop := true } }
  else .ok () { s with
    tc := { s.tc with outCur := s.tc.outCur + n }
    hostOut := copyCells m a s.hostOut s.tc.outCur n
    xfers := .push n :: s.xfers }

/-! ### The start of a command (R341) -/

/-- The part of command start both commands share: `CMD` holds the command, `STATUS` is `BUSY`, the Transfer Context is
fresh (R32, R33, R293, R341); the log of transfers starts anew (log 13). -/
def State.startCommand (cmd : BitVec 2) (s : State) : State :=
  { s with
    cr := { s.cr with cmd := cmd, status := statusStart }
    tc := { inCur := 0, inLen := s.cr.argInLen, outCur := 0, outLimit := s.cr.argOutCap, stop := false }
    xfers := [] }

end Sys2Proof.Machine
end

