-- ==== Sys2Proof/Machine/Operands.lean ====
section
/-! DEFINITION. Every operand form of the instructions: lengths (30_encoding.md R106), offsets and their low-field width
(R110, R111), and the values the spec derives from registers: `DSIZE` (10_state.md R34), `BASE`, `LO_VALID` (R35), the size
of `WORK` (R41). -/

namespace Sys2Proof.Machine

/-- The copy length of class `i` with extra value `e`: `s + 2` with `s = LEN_BASE[i] + e` (R106). -/
def copyLength (T : Config.CodeTables) (i e : Nat) : Nat := lenBase T i + e + 2

/-- The width of the low field for a copy of length `len` under window size `wsize`: 2 after length 2, else `WSIZE` (R110). -/
def lowWidth (len : Nat) (wsize : Byte) : Nat := if len = 2 then 2 else wsize.toNat

/-- The offset a class and a low field give: `(c << lw) | low` (R111); both parts are zero-extended. -/
def offsetOf (c : Nat) (low : Low) : Nat := c * 2 ^ low.width + low.val

/-- `DSIZE = 64 << WSIZE` (R34). -/
def State.dsize (s : State) : Nat := 64 * 2 ^ s.hdr.wsize.toNat

/-- `BASE = DSIZE + 516` (R76). -/
def State.base (s : State) : Nat := s.dsize + Config.lookahead

/-- The size of `WORK`: `DSIZE + 516 + 4096` (R41). -/
def State.workSize (s : State) : Nat := s.base + Config.cmpChunk

/-- `LO_VALID = max(0, DSIZE + 516 - 4096 * ROUND)` (R35, R237); the subtraction of naturals stops at 0. -/
def State.loValid (s : State) : Nat := s.base - Config.cmpChunk * s.cmp.round

/-- Is a window-size parameter legal: 4, 5 or 6 (R102, R294)? -/
def legalWsize (w : Byte) : Bool := w == 4 || w == 5 || w == 6

end Sys2Proof.Machine
end

