-- ==== Sys2Proof/Machine/BitReader.lean ====
section
/-! DEFINITION. The read side of the Bit Channel (40_bit_channel.md R150 to R156): NEXT_BYTE, FILL, PEEK, CONSUME, READ, over
`BITBUF`, `NBITS`, `INB`, `IN_POS`, `IN_FILL` and `IN_EOF` of DEC. -/

namespace Sys2Proof.Machine

/-- The refill inside NEXT_BYTE (R151): a pull of up to 2048 bytes into `INB`; `IN_FILL` is what it delivered. -/
def refill (s : State) : State :=
  let n := pullCount s Config.inbSize
  let p := pull s.dec.inb 0 Config.inbSize s
  { p.2 with dec := { p.2.dec with inb := p.1, inFill := n, inPos := 0 } }

/-- The byte at `IN_POS`, which moves past it (R151). -/
def takeInb (s : State) : Res (Option Byte) :=
  if Config.inbSize ≤ s.dec.inPos then .fault .inbRange
  else .ok (some (s.dec.inb.read s.dec.inPos)) { s with dec := { s.dec with inPos := s.dec.inPos + 1 } }

/-- NEXT_BYTE (R151): the next stream byte, or none at the end of the input; the first pull of 0 bytes sets `IN_EOF`, after
which no pull is made. -/
def nextByte (s : State) : Res (Option Byte) :=
  if s.dec.inPos = s.dec.inFill then
    if s.dec.inEof then .ok none s
    else
      let t := refill s
      if t.dec.inFill = 0 then .ok none { t with dec := { t.dec with inEof := true } }
      else takeInb t
  else takeInb s

/-- One byte put into `BITBUF` above the `NBITS` bits already there (R152). -/
def loadByte (b : Byte) (s : State) : State :=
  { s with dec := { s.dec with
    bitbuf := s.dec.bitbuf ||| (b.setWidth 16 <<< s.dec.nbits)
    nbits := s.dec.nbits + 8 } }

/-- The loop of FILL (R152): while `NBITS <= 8` take a byte. `fuel` bounds the iterations; two fill the register. -/
def fillLoop (fuel : Nat) (s : State) : Res Unit :=
  match fuel with
  | 0 => .ok () s
  | fuel + 1 =>
    if s.dec.nbits ≤ 8 then
      (nextByte s).bind fun o t =>
        match o with
        | none => .ok () t
        | some b => fillLoop fuel (loadByte b t)
    else .ok () s

/-- FILL (R152). -/
def fill (s : State) : Res Unit := fillLoop 2 s

/-- PEEK (R153): the next `k` stream bits, `k` in 1..8, zeros past the end of the input. -/
def peek (k : Nat) (s : State) : Res Nat :=
  if k = 0 ∨ 8 < k then .refuse .fieldWidth
  else (fill s).bind fun _ t => .ok (lowbits t.dec.bitbuf.toNat k) t

/-- CONSUME (R154): remove the next `k` stream bits, `k` in 1..8; STARVED if the whole input holds fewer. -/
def consume (P : Config.Params) (k : Nat) (s : State) : Res Unit :=
  if k = 0 ∨ 8 < k then .refuse .fieldWidth
  else (fill s).bind fun _ t =>
    if t.dec.nbits < k then raise P .dec .starved t
    else .ok () { t with dec := { t.dec with bitbuf := t.dec.bitbuf >>> k, nbits := t.dec.nbits - k } }

/-- READ (R155): PEEK, then CONSUME. -/
def readBits (P : Config.Params) (k : Nat) (s : State) : Res Nat :=
  (peek k s).bind fun v t => (consume P k t).bind fun _ u => .ok v u

end Sys2Proof.Machine
end

