-- ==== Sys2Proof/Machine/BitWriter.lean ====
section
/-! DEFINITION. The write side of the Bit Channel (40_bit_channel.md R140 to R145): STORE_BYTE, FLUSH_OUTB, WRITE_BITS,
FINISH, over `ACC`, `NACC`, `OUTB` and `OUT_POS` of CMP. -/

namespace Sys2Proof.Machine

/-- FLUSH_OUTB (R142): push all 2048 bytes of `OUTB`, then `OUT_POS <- 0`; what is in `ACC` stays. -/
def flushOutb (s : State) : Res Unit :=
  (push s.cmp.outb Config.outbSize .outbRange 0 Config.outbSize s).bind fun _ t =>
    .ok () { t with cmp := { t.cmp with outPos := 0 } }

/-- STORE_BYTE (R141): append one complete byte; the 2048th flushes. A no-op once `STOP` is set (R145). -/
def storeByte (b : Byte) (s : State) : Res Unit :=
  if s.tc.stop then .ok () s
  else if Config.outbSize ≤ s.cmp.outPos then .fault .outbRange
  else
    let t := { s with cmp := { s.cmp with outb := s.cmp.outb.write s.cmp.outPos b, outPos := s.cmp.outPos + 1 } }
    if t.cmp.outPos = Config.outbSize then flushOutb t else .ok () t

/-- `ACC` and `NACC` cleared (R143, R144). -/
def clearAcc (s : State) : State := { s with cmp := { s.cmp with acc := 0, nacc := 0 } }

/-- The low `take` bits of `v` put into `ACC` above the `NACC` bits already there (R143). -/
def addToAcc (take v : Nat) (s : State) : State :=
  { s with cmp := { s.cmp with
    acc := s.cmp.acc ||| BitVec.ofNat 8 (lowbits v take * 2 ^ s.cmp.nacc)
    nacc := s.cmp.nacc + take } }

/-- The loop of WRITE_BITS (R143): `n` bits of `v` are left. `fuel` bounds the iterations; each takes at least one bit when
`NACC <= 7`, so `fuel = n` is enough. -/
def writeLoop (fuel n v : Nat) (s : State) : Res Unit :=
  match fuel with
  | 0 => .ok () s
  | fuel + 1 =>
    if n = 0 then .ok () s
    else
      let take := min n (8 - s.cmp.nacc)
      let t := addToAcc take v s
      if t.cmp.nacc = 8 then
        (storeByte t.cmp.acc t).bind fun _ u => writeLoop fuel (n - take) (v / 2 ^ take) (clearAcc u)
      else writeLoop fuel (n - take) (v / 2 ^ take) t

/-- WRITE_BITS (R143): append the low `n` bits of `v`, bit 0 first. A no-op once `STOP` is set (R145); `n` outside 1..16 has
no meaning and is refused (R143, U11). -/
def writeBits (n v : Nat) (s : State) : Res Unit :=
  if s.tc.stop then .ok () s
  else if n = 0 ∨ 16 < n then .refuse .fieldWidth
  else writeLoop n n (lowbits v n) s

/-- The first half of FINISH (R144): the partly filled byte is stored, its upper bits being the zero padding. -/
def finishByte (s : State) : Res Unit :=
  if s.cmp.nacc = 0 then .ok () s
  else (storeByte s.cmp.acc s).bind fun _ t => .ok () (clearAcc t)

/-- The second half of FINISH (R144): what `OUTB` still holds is pushed, if anything. -/
def finishPush (s : State) : Res Unit :=
  if s.tc.stop ∨ s.cmp.outPos = 0 then .ok () s
  else
    (push s.cmp.outb Config.outbSize .outbRange 0 s.cmp.outPos s).bind fun _ t =>
      .ok () { t with cmp := { t.cmp with outPos := 0 } }

/-- FINISH (R144). Once `STOP` is set it changes nothing (R145; log 17). -/
def finish (s : State) : Res Unit :=
  if s.tc.stop then .ok () s else (finishByte s).bind fun _ t => finishPush t

end Sys2Proof.Machine
end

