-- ==== Sys2Proof/Machine/Codes.lean ====
section
/-! DEFINITION. The Fixed Code Tables (41_code_tables.md): the codeword table and the jump tables built from `T` (R173, R174,
R178), the encoder's EMIT operations (R175 to R177) and the decoder's DECODE operations (R180, R181). -/

namespace Sys2Proof.Machine

/-! ### The codeword table (R173, R174) -/

/-- The length class of symbol `s`, counted from `i`: `LEN_BASE[i] <= s < LEN_BASE[i] + (1 << LEN_EXTRA[i])` (R106). -/
def symClass (base extra : List Nat) (s i : Nat) : Nat :=
  match base, extra with
  | b :: bs, e :: es => if b ≤ s ∧ s < b + 2 ^ e then i else symClass bs es s (i + 1)
  | _, _ => i

/-- The length class of length symbol `s` in `0 .. 517` (R106). -/
def lenClassOfSym (T : Config.CodeTables) (s : Nat) : Nat := symClass T.lenBase T.lenExtra s 0

/-- `LENCW(s)` (R107): the value of the length codeword. -/
def lenCwValue (T : Config.CodeTables) (s : Nat) : Nat :=
  let i := lenClassOfSym T s
  1 + lenCode T i * 2 + (s - lenBase T i) * 2 ^ (1 + lenBits T i)

/-- `LENCW(s)` (R107): the width of the length codeword. -/
def lenCwWidth (T : Config.CodeTables) (s : Nat) : Nat :=
  let i := lenClassOfSym T s
  1 + lenBits T i + lenExtra T i

/-- `CWV[y]` (R173). -/
def cwValue (T : Config.CodeTables) (y : Nat) : Nat := if y < 256 then y * 2 else lenCwValue T (y - 256)

/-- `CWB[y]` (R173). -/
def cwWidth (T : Config.CodeTables) (y : Nat) : Nat := if y < 256 then 9 else lenCwWidth T (y - 256)

/-- A table of `n` cells, holding `f` of their indexes from `x` on. -/
def tableOf (f : Nat → Nat) (x : Nat) : Nat → Table
  | 0 => []
  | n + 1 => f x :: tableOf f (x + 1) n

/-- `CWV` after BUILD_CW. The built tables are irreducible, so that comparing two states never evaluates one. -/
@[irreducible] def builtCwv (T : Config.CodeTables) : Table := tableOf (cwValue T) 0 Config.nSym

/-- `CWB` after BUILD_CW. -/
@[irreducible] def builtCwb (T : Config.CodeTables) : Table := tableOf (cwWidth T) 0 Config.nSym

/-- BUILD_CW (R174), by the formula of R173: all 774 cells of `CWV` and `CWB`. -/
def buildCw (T : Config.CodeTables) (s : State) : State :=
  { s with cmp := { s.cmp with cwv := builtCwv T, cwb := builtCwb T } }

/-! ### The jump tables (R178) -/

/-- The inner loop of BUILD_JUMP (R178): from cell `p` on, every `step`-th cell below 256 that is unwritten gets class `i`. -/
def claimCells (i step : Nat) (cells : List (Option Nat)) (p : Nat) : Nat → List (Option Nat)
  | 0 => cells
  | fuel + 1 =>
    if p < 256 then
      claimCells i step (if (cells.getD p none).isNone then cells.set p (some i) else cells) (p + step) fuel
    else cells

/-- The outer loop of BUILD_JUMP (R178): classes ascending, the first writer of a cell wins. -/
def claimAll (bits codes : List Nat) (i : Nat) (cells : List (Option Nat)) : List (Option Nat) :=
  match bits, codes with
  | n :: ns, c :: cs => claimAll ns cs (i + 1) (claimCells i (2 ^ n) cells c 256)
  | _, _ => cells

/-- One jump table (R178); every cell is claimed when the code is complete (R172), and an unclaimed one would hold 0. -/
def buildJump (bits codes : List Nat) : Table :=
  let cells := claimAll bits codes 0 (List.replicate 256 none)
  tableOf (fun x => (cells.getD x none).getD 0) 0 256

/-- `LENJ` after BUILD_JUMP. -/
@[irreducible] def builtLenj (T : Config.CodeTables) : Table := buildJump T.lenBits T.lenCode

/-- `DISTJ` after BUILD_JUMP. -/
@[irreducible] def builtDistj (T : Config.CodeTables) : Table := buildJump T.distBits T.distCode

/-- What R179 says a jump table holds after BUILD_JUMP: for each pattern the class whose code it begins with. -/
def jumpTable (bits codes : List Nat) : Table := tableOf (fun x => (classOf bits codes x 0).getD 0) 0 256

/-- BUILD_JUMP (R178). -/
def buildJumps (T : Config.CodeTables) (s : State) : State :=
  { s with dec := { s.dec with lenj := builtLenj T, distj := builtDistj T } }

/-! ### Encoder side -/

/-- EMIT_LIT (R175). -/
def emitLit (b : Byte) (s : State) : Res Unit :=
  writeBits (s.cmp.cwb.getD b.toNat 0) (s.cmp.cwv.getD b.toNat 0) s

/-- The operands EMIT_COPY has an encoding for (R176). -/
def copyEncodable (len off : Nat) (s : State) : Bool :=
  decide (Config.minLen ≤ len) && decide (len ≤ Config.maxLen) &&
    (if len = 2 then decide (off < Config.len2OffLimit) else decide (off < s.dsize))

/-- EMIT_COPY (R176): the length codeword, the offset class code, the low field, as three writes in this order. -/
def emitCopy (T : Config.CodeTables) (len off : Nat) (s : State) : Res Unit :=
  if copyEncodable len off s then
    let lw := lowWidth len s.hdr.wsize
    let c := off / 2 ^ lw
    (writeBits (s.cmp.cwb.getD (254 + len) 0) (s.cmp.cwv.getD (254 + len) 0) s).bind fun _ t =>
      (writeBits (distBits T c) (distCode T c) t).bind fun _ u =>
        writeBits lw (lowbits off lw) u
  else .refuse .copyOperands

/-- EMIT_END (R177). -/
def emitEnd (s : State) : Res Unit :=
  writeBits (s.cmp.cwb.getD 773 0) (s.cmp.cwv.getD 773 0) s

/-! ### Decoder side -/

/-- The extra bits of length class `i`: none to read where `LEN_EXTRA[i]` is 0 (R180). -/
def readExtra (P : Config.Params) (i : Nat) (s : State) : Res Nat :=
  if lenExtra P.tables i = 0 then .ok 0 s else readBits P (lenExtra P.tables i) s

/-- DECODE_LEN (R180), up to the class and its extra value: `LEN_BASE[i] + e` is the symbol. -/
def decodeLen (P : Config.Params) (s : State) : Res (Nat × Nat) :=
  (peek 8 s).bind fun x t =>
    let i := t.dec.lenj.getD x 0
    (consume P (lenBits P.tables i) t).bind fun _ u =>
      (readExtra P i u).bind fun e v => .ok (i, e) v

/-- DECODE_OFF (R181), up to the class and the low field: `(c << lw) | low` is the offset. -/
def decodeOff (P : Config.Params) (len : Nat) (s : State) : Res (Nat × Nat) :=
  (peek 8 s).bind fun x t =>
    let c := t.dec.distj.getD x 0
    (consume P (distBits P.tables c) t).bind fun _ u =>
      (readBits P (lowWidth len u.hdr.wsize) u).bind fun v w => .ok (c, v) w

end Sys2Proof.Machine
end

