-- ==== Sys2Proof/Machine/MatchFinder.lean ====
section
/-! DEFINITION. The Match Finder (42_match_finder.md): HASH, INDEX_BUILD, FIND_MATCH, CHOOSE, over `WORK`,
`HTAB`, `IDX` and the cursors of CMP. -/

namespace Sys2Proof.Machine

/-- What CHOOSE decides to emit (R213). -/
inductive Token where
  | lit (b : Byte)
  | copy (len off : Nat)
  deriving DecidableEq, Repr

/-- HASH (R201): `4 * b0 + 5 * b1`, in `0 .. 2295`. -/
def hash (b0 b1 : Byte) : Nat := 4 * b0.toNat + 5 * b1.toNat

/-- The hash of position `q` of `WORK`: of its byte and the next (R202). -/
def hashAt (work : Memory) (q : Nat) : Nat := hash (work.read q) (work.read (q + 1))

/-! ### INDEX_BUILD (R202) -/

/-- Pass one: count, for `n` positions from `q` on, ascending, the positions of each bucket. -/
def countPass (work : Memory) (q : Nat) (htab : Table) : Nat → Table
  | 0 => htab
  | n + 1 =>
    let h := hashAt work q
    countPass work (q + 1) (htab.set h (htab.getD h 0 + 1)) n

/-- Prefix sums: each cell becomes one past the last slot of its bucket. -/
def prefixSums (t : Nat) (htab : Table) : Table :=
  match htab with
  | [] => []
  | c :: cs => (t + c) :: prefixSums (t + c) cs

/-- Pass two: place, for `n` positions from `lo` on, walking them in reverse, each position into its bucket's last free
slot. -/
def placePass (work : Memory) (lo : Nat) (htab idx : Table) : Nat → Table × Table
  | 0 => (htab, idx)
  | n + 1 =>
    let q := lo + n
    let h := hashAt work q
    let slot := htab.getD h 0 - 1
    placePass work lo (htab.set h slot) (idx.set slot q) n

/-- `IDX_LO = max(LO_VALID, CUR - DSIZE)` (R202). -/
def State.idxLo (s : State) : Nat := max s.loValid (s.cmp.cur - s.dsize)

/-- How many positions are indexed: those of `[IDX_LO, LOAD_END - 1)` (R202). -/
def State.idxCount (s : State) : Nat := s.cmp.loadEnd - 1 - s.idxLo

/-- INDEX_BUILD (R202): zero `HTAB`, count, sum, place. -/
def indexBuild (s : State) : Res Unit :=
  if s.workSize < s.cmp.loadEnd then .fault .workRange
  else if Config.idxSize < s.idxCount then .fault .idxRange
  else
    let counts := countPass s.cmp.work s.idxLo (Table.zeros Config.nBucket) s.idxCount
    let p := placePass s.cmp.work s.idxLo (prefixSums 0 counts) s.cmp.idx s.idxCount
    .ok () { s with cmp := { s.cmp with htab := p.1, idx := p.2, nidx := counts.sum } }

/-- `BEND(h)`: the end of bucket `h` (R203). -/
def State.bend (s : State) (h : Nat) : Nat :=
  if h < Config.nBucket - 1 then s.cmp.htab.getD (h + 1) 0 else s.cmp.nidx

/-- The positions of bucket `h`, oldest first (R203). -/
def State.bucket (s : State) (h : Nat) : List Nat :=
  (s.cmp.idx.drop (s.cmp.htab.getD h 0)).take (s.bend h - s.cmp.htab.getD h 0)

/-! ### FIND_MATCH (R205 to R210) -/

/-- How many bytes from `q` on equal those from `p` on, at most the last argument (R205). -/
def matchLen (work : Memory) (q p : Nat) : Nat → Nat
  | 0 => 0
  | n + 1 => if work.read q = work.read p then matchLen work (q + 1) (p + 1) n + 1 else 0

/-- The candidate `q` against the best match so far: it wins with at least 2 bytes and at least as many (R205, R209). -/
def improve (k p q : Nat) (best : Nat × Nat) : Nat × Nat :=
  if 2 ≤ k ∧ best.1 ≤ k then (k, p - q - 1) else best

/-- The loop of FIND_MATCH over candidates, oldest first (R205): those below the floor are skipped, those at or past `p` end
it, and so does the first of 516 bytes. -/
def scanBucket (work : Memory) (p maxlen floor : Nat) (cands : List Nat) (best : Nat × Nat) : Nat × Nat :=
  match cands with
  | [] => best
  | q :: rest =>
    if q < floor then scanBucket work p maxlen floor rest best
    else if p ≤ q then best
    else
      let k := matchLen work q p maxlen
      if k = Config.maxRep then improve k p q best
      else scanBucket work p maxlen floor rest (improve k p q best)

/-- The length-2 rule (R210): a match of 2 bytes at offset 256 or more is none. -/
def lengthTwoRule (m : Nat × Nat) : Nat × Nat :=
  if m.1 = 2 ∧ Config.len2OffLimit ≤ m.2 then (0, 0) else m

/-- `maxlen` of position `p`: the match is clipped at the loaded data (R205). -/
def State.maxLenAt (s : State) (p : Nat) : Nat := min Config.maxRep (s.cmp.loadEnd - p)

/-- `floor` of position `p` (R205, R206). -/
def State.floorAt (s : State) (p : Nat) : Nat := max s.loValid (p - s.dsize)

/-- FIND_MATCH (R205): the length and offset of the best match at `p`, length 0 for none. -/
def findMatch (p : Nat) (s : State) : Except Fault (Nat × Nat) :=
  let maxlen := s.maxLenAt p
  if maxlen < 2 then .ok (0, 0)
  else
    let h := hashAt s.cmp.work p
    if Config.idxSize < s.bend h then .error .idxRange
    else .ok (lengthTwoRule (scanBucket s.cmp.work p maxlen (s.floorAt p) (s.bucket h) (0, 0)))

/-! ### The lazy choice (R211, R213) -/

/-- An operation that may fault, as a result. -/
def orFault (r : Except Fault α) (s : State) : Res α :=
  match r with
  | .ok a => .ok a s
  | .error f => .fault f

/-- `M_LEN`, `M_OFF` written (R213). -/
def setMatch (m : Nat × Nat) (s : State) : State := { s with cmp := { s.cmp with mLen := m.1, mOff := m.2 } }

/-- `N_LEN`, `N_OFF` written (R213). -/
def setNextMatch (m : Nat × Nat) (s : State) : State := { s with cmp := { s.cmp with nLen := m.1, nOff := m.2 } }

/-- The literal CHOOSE falls back to (R213). -/
def State.litAtCur (s : State) : Token × Nat := (.lit (s.cmp.work.read s.cmp.cur), 1)

/-- CHOOSE (R211, R213): the one token to emit at `CUR` and how many bytes it covers, by the parameter `LAZY_DEFER`. -/
def choose (P : Config.Params) (s : State) : Res (Token × Nat) :=
  if s.workSize < s.cmp.loadEnd ∨ s.cmp.loadEnd ≤ s.cmp.cur then .fault .workRange
  else
    (orFault (findMatch s.cmp.cur s) s).bind fun m _ =>
      let t := setMatch m s
      if 2 ≤ m.1 then
        (orFault (findMatch (t.cmp.cur + 1) t) t).bind fun n _ =>
          let u := setNextMatch n t
          if P.lazyDefer m.1 m.2 n.1 n.2 then .ok u.litAtCur u
          else .ok (.copy m.1 m.2, m.1) u
      else .ok t.litAtCur t

end Sys2Proof.Machine
end

