-- ==== Sys2Proof/Machine/Compressor.lean ====
section
/-! DEFINITION. The Compressor Pipeline (43_compressor.md R231 to R239): the operation of each state of CMP, and the step of
the engine. None of these is an instruction; they are what CMP does between the command COMPRESS and its completion. -/

namespace Sys2Proof.Machine

/-- `state <- S` for CMP (R13, R231). -/
def State.setCstate (c : CState) (s : State) : State := { s with cmp := { s.cmp with cstate := c } }

/-- `state <- C_FAIL` with `raise OutputOverflow(PUSH)` if `STOP` is set (R239), else go on with `f`. -/
def failIfStopped (P : Config.Params) (s : State) (f : State → Res Unit) : Res Unit :=
  if s.tc.stop then raise P .cmp .push s else f s

/-- STAGE (R233): one pull of up to 4096 bytes; a short one ends the input. -/
def stage (s : State) : Res Unit :=
  let n := pullCount s Config.cmpChunk
  let p := pull s.cmp.work s.base Config.cmpChunk s
  let ended := if n < Config.cmpChunk then true else p.2.cmp.ended
  .ok () { p.2 with cmp := { p.2.cmp with
    work := p.1
    nload := n
    ended := ended
    loadEnd := s.base + n
    scanEnd := s.dsize + n + (if ended then Config.lookahead else 0)
    cstate := .analyze } }

/-- ANALYZE (R234). -/
def analyze (s : State) : Res Unit :=
  (indexBuild s).bind fun _ t => .ok () (t.setCstate .emit)

/-- Emit the token CHOOSE decided on (R235). -/
def emitToken (T : Config.CodeTables) (tok : Token) (s : State) : Res Unit :=
  match tok with
  | .lit b => emitLit b s
  | .copy len off => emitCopy T len off s

/-- EMIT_STEP (R235): one token; the cursor moves over what it covers; OutputOverflow if a push did not fit (R239). -/
def emitStep (P : Config.Params) (s : State) : Res Unit :=
  (choose P s).bind fun c t =>
    (emitToken P.tables c.1 t).bind fun _ u =>
      failIfStopped P { u with cmp := { u.cmp with cur := u.cmp.cur + c.2 } } fun v => .ok () v

/-- `C_EMIT` (R231): a token while `CUR < SCAN_END`; then SHIFT, or TERMINATE when the input has ended. -/
def emitState (P : Config.Params) (s : State) : Res Unit :=
  failIfStopped P s fun t =>
    if t.cmp.cur < t.cmp.scanEnd then emitStep P t
    else .ok () (t.setCstate (if t.cmp.ended then .terminate else .shift))

/-- SHIFT (R237): the valid bytes move down by 4096, ascending; so does the cursor; `ROUND` counts, saturating at 2. -/
def shift (s : State) : Res Unit :=
  if s.cmp.cur < Config.cmpChunk then .fault .cursorRange
  else
    let lo := max Config.cmpChunk s.loValid
    .ok () { s with cmp := { s.cmp with
      work := moveBytes s.cmp.work lo (lo - Config.cmpChunk) (s.workSize - lo)
      cur := s.cmp.cur - Config.cmpChunk
      round := min (s.cmp.round + 1) 2
      cstate := .staging } }

/-- TERMINATE (R238): END, then the rest of the output; success unless a push did not fit. -/
def terminate (P : Config.Params) (s : State) : Res Unit :=
  (emitEnd s).bind fun _ t =>
    (finish t).bind fun _ u =>
      failIfStopped P u fun v => .ok () (v.complete .cmp)

/-- One step of CMP by its FSM register (R231). While `BUSY` = 1 the engine is in none of its waiting states. -/
def cmpStep (P : Config.Params) (s : State) : Res Unit :=
  match s.cmp.cstate with
  | .idle => .refuse .engineNotRunning
  | .staging => stage s
  | .analyze => analyze s
  | .emit => emitState P s
  | .shift => shift s
  | .terminate => terminate P s
  | .done => .refuse .engineNotRunning
  | .fail => .refuse .engineNotRunning

end Sys2Proof.Machine
end

