-- ==== Sys2Proof/Machine/Decompressor.lean ====
section
/-! DEFINITION. The Decompressor Pipeline (44_decompressor.md): the operations the tokens share (COPY_CHECK, COPY_EXEC, R267,
R268, and the store at the write cursor, R264, R276) and the two flushes of DEC (R270, R271), which are engine steps and no
instructions. -/

namespace Sys2Proof.Machine

/-- `state <- S` for DEC (R13, R261). -/
def State.setDstate (d : DState) (s : State) : State := { s with dec := { s.dec with dstate := d } }

/-- The body of LIT (R264): the byte is stored at the write cursor, which moves on; `HIST` counts, saturating at 4096. -/
def storeLiteral (P : Config.Params) (b : Byte) (s : State) : Host.Outcome State Fault Refusal :=
  if P.decWinSize ≤ s.dec.wpos then .fault .winRange
  else .next { s with dec := { s.dec with
    win := s.dec.win.write s.dec.wpos b
    wpos := s.dec.wpos + 1
    hist := min (s.dec.hist + 1) Config.decHist
    dstate := .flush } }

/-- The length half of COPY (R265): `T_LEN <- s + 2`; the offset's row comes next (log 12). -/
def setCopyLength (P : Config.Params) (i e : Nat) (s : State) : Host.Outcome State Fault Refusal :=
  .next { s with dec := { s.dec with tLen := copyLength P.tables i e, dstate := .copy, offNext := true } }

/-- COPY_EXEC (R268), after which `D_FLUSH` follows (R265): `T_LEN` bytes, one at a time, from `T_OFF + 1` before the write
cursor on. -/
def copyExec (P : Config.Params) (s : State) : Host.Outcome State Fault Refusal :=
  if s.dec.wpos < s.dec.tOff + 1 ∨ P.decWinSize < s.dec.wpos + s.dec.tLen then .fault .winRange
  else
    let src := s.dec.wpos - (s.dec.tOff + 1)
    .next { s with dec := { s.dec with
      win := moveBytes s.dec.win src s.dec.wpos s.dec.tLen
      wpos := s.dec.wpos + s.dec.tLen
      src := src + s.dec.tLen
      hist := min (s.dec.hist + s.dec.tLen) Config.decHist
      dstate := .flush } }

/-- The offset half of COPY (R265): `T_OFF`, then COPY_CHECK (R267), then COPY_EXEC (R268). -/
def copyFromOffset (P : Config.Params) (c : Nat) (low : Low) (s : State) : Host.Outcome State Fault Refusal :=
  let t := { s with dec := { s.dec with tOff := offsetOf c low, offNext := false } }
  if t.dec.hist < t.dec.tOff + 1 then .next (t.fail P .dec .distBeforeStart) else copyExec P t

/-- FLUSH_IF_FULL (R270): once the cursor has reached 8192, push 4096 bytes and slide the rest down. -/
def flushIfFull (P : Config.Params) (s : State) : Res Unit :=
  if s.dec.wpos < Config.decFlushAt then .ok () (s.setDstate .token)
  else if P.decWinSize < s.dec.wpos then .fault .winRange
  else
    (push s.dec.win P.decWinSize .winRange Config.decHist Config.decHist s).bind fun _ t =>
      if t.tc.stop then raise P .dec .push t
      else .ok () { t with dec := { t.dec with
        win := moveBytes t.dec.win Config.decHist 0 (t.dec.wpos - Config.decHist)
        wpos := t.dec.wpos - Config.decHist
        dstate := .token } }

/-- FINAL_FLUSH (R271): push what is left beyond 4096, if anything; then the command is done. -/
def finalFlush (P : Config.Params) (s : State) : Res Unit :=
  if s.dec.wpos ≤ Config.decHist then .ok () (s.complete .dec)
  else
    (push s.dec.win P.decWinSize .winRange Config.decHist (s.dec.wpos - Config.decHist) s).bind fun _ t =>
      if t.tc.stop then raise P .dec .push t else .ok () (t.complete .dec)

end Sys2Proof.Machine
end

