-- ==== Sys2Proof/Machine/Command.lean ====
section
/-! DEFINITION. The commands COMPRESS and DECOMPRESS (43_compressor.md R230, R232; 44_decompressor.md R260;
45_transfer_harness.md R294, R295; 70_reset_and_hazards.md R341). A command starts its engine; the engine then steps by
itself to completion. -/

namespace Sys2Proof.Machine

/-- The registers of CMP at command start, after the check (R232, R341). The memories and the index tables keep their
content, which no rule reads before writing it (R343; log 7). -/
def initCmp (s : State) : State :=
  let t := { s with hdr := { litmode := 0, wsize := s.cr.wsizeCfg } }
  { t with cmp := { t.cmp with
    cur := t.base, nload := 0, loadEnd := t.base, scanEnd := t.dsize, ended := false, round := 0
    mLen := 0, mOff := 0, nLen := 0, nOff := 0, nidx := 0, acc := 0, nacc := 0, outPos := 0 } }

/-- COMPRESS_START (R232) after the check of R294: registers, codeword tables, the two header bytes, `C_STAGING`. -/
def compressStart (T : Config.CodeTables) (s : State) : Res Unit :=
  (storeByte 0 (buildCw T (initCmp s))).bind fun _ t =>
    (storeByte t.hdr.wsize t).bind fun _ u => .ok () (u.setCstate .staging)

/-- The command COMPRESS: the window size is checked before anything else (R294). A command while `BUSY` = 1 has no rule
(R299), and parameters that are not well-formed make the model refuse it (R172). -/
def runCompress (P : Config.Params) (s : State) : Host.Outcome State Fault Refusal :=
  if s.busy then .refused .hostWhileBusy
  else if !P.wf then .refused .illFormedParameters
  else
    let t := s.startCommand 1
    if legalWsize t.cr.wsizeCfg then (compressStart P.tables t).outcome
    else .next (t.fail P .cmp .badWsizeCfg)

/-- The registers of DEC at command start (R341); its memories and tables keep their content (log 7). -/
def initDec (s : State) : State :=
  { s with
    hdr := { litmode := 0, wsize := 0 }
    dec := { s.dec with
      bitbuf := 0, nbits := 0, inPos := 0, inFill := 0, inEof := false
      wpos := Config.decHist, hist := 0, tLen := 0, tOff := 0, src := 0
      hdrByte0 := none, offNext := false, dstate := .header } }

/-- The command DECOMPRESS: no operand check (R295); refused as COMPRESS is (R172, R299). -/
def runDecompress (P : Config.Params) (s : State) : Host.Outcome State Fault Refusal :=
  if s.busy then .refused .hostWhileBusy
  else if !P.wf then .refused .illFormedParameters
  else .next (initDec (s.startCommand 2))

/-- COMPRESS (R230). -/
def execCompress (s : State) : Host.Outcome State Fault Refusal := runCompress standard s

/-- DECOMPRESS (R260). -/
def execDecompress (s : State) : Host.Outcome State Fault Refusal := runDecompress standard s

end Sys2Proof.Machine
end

