-- ==== Sys2Proof/Machine/EndToken.lean ====
section
/-! DEFINITION. The token END (44_decompressor.md R265, R266): no offset follows, nothing after it is read. -/

namespace Sys2Proof.Machine

/-- END: `state <- D_EOF` (R265); the final flush follows (R271). -/
def execEnd (s : State) : Host.Outcome State Fault Refusal := .next (s.setDstate .eof)

end Sys2Proof.Machine
end

