-- ==== Sys2Proof/Machine/Header.lean ====
section
/-! DEFINITION. The header rows HDR0 and HDR1 (44_decompressor.md R262). HEADER fetches both bytes before it checks either, so
HDR0 keeps its byte and HDR1 makes the checks (log 12). -/

namespace Sys2Proof.Machine

/-- The first header byte is taken; LITMODE is written and checked with the second (R262). -/
def takeByteZero (b : Byte) (s : State) : Host.Outcome State Fault Refusal :=
  .next { s with dec := { s.dec with hdrByte0 := some b } }

/-- The header registers written from the two bytes (R262). -/
def loadHeader (w : Byte) (s : State) : State :=
  { s with
    hdr := { litmode := s.dec.hdrByte0.getD 0, wsize := w }
    dec := { s.dec with hdrByte0 := none } }

/-- The accepted header (R262): the jump tables are built, the cursor and the history set, tokens follow. -/
def acceptHeader (T : Config.CodeTables) (s : State) : State :=
  let t := buildJumps T s
  { t with dec := { t.dec with wpos := Config.decHist, hist := 0, dstate := .token } }

/-- The second header byte; the flag is checked first, then the window size (R262, R316). -/
def checkHeader (P : Config.Params) (w : Byte) (s : State) : Host.Outcome State Fault Refusal :=
  let t := loadHeader w s
  if t.hdr.litmode != 0 then .next (t.fail P .dec .badLitmode)
  else if !legalWsize t.hdr.wsize then .next (t.fail P .dec .badWsize)
  else .next (acceptHeader P.tables t)

/-- HDR0 (R101, R262). -/
def execHdr0 (b : Byte) (s : State) : Host.Outcome State Fault Refusal := takeByteZero b s

/-- HDR1 (R102, R262). -/
def execHdr1 (w : Byte) (s : State) : Host.Outcome State Fault Refusal := checkHeader standard w s

end Sys2Proof.Machine
end

