-- ==== Sys2Proof/Machine/LengthClass.lean ====
section
/-! DEFINITION. The length-class rows LEN0 to LEN15 (30_encoding.md R106, R119; 44_decompressor.md R265): each writes `T_LEN`
with the copy length its class and extra bits give; an offset row comes next. Rows LEN0 to LEN7 have no extra bits in `T_PKWARE`;
their extra value may be left out and is then 0 (log 28). -/

namespace Sys2Proof.Machine

/-- LEN0: length 2 (R171, R265). -/
def execLen0 (s : State) (e : Byte := 0) : Host.Outcome State Fault Refusal := setCopyLength standard 0 e.toNat s

/-- LEN1: length 3 (R171, R265). -/
def execLen1 (s : State) (e : Byte := 0) : Host.Outcome State Fault Refusal := setCopyLength standard 1 e.toNat s

/-- LEN2: length 4 (R171, R265). -/
def execLen2 (s : State) (e : Byte := 0) : Host.Outcome State Fault Refusal := setCopyLength standard 2 e.toNat s

/-- LEN3: length 5 (R171, R265). -/
def execLen3 (s : State) (e : Byte := 0) : Host.Outcome State Fault Refusal := setCopyLength standard 3 e.toNat s

/-- LEN4: length 6 (R171, R265). -/
def execLen4 (s : State) (e : Byte := 0) : Host.Outcome State Fault Refusal := setCopyLength standard 4 e.toNat s

/-- LEN5: length 7 (R171, R265). -/
def execLen5 (s : State) (e : Byte := 0) : Host.Outcome State Fault Refusal := setCopyLength standard 5 e.toNat s

/-- LEN6: length 8 (R171, R265). -/
def execLen6 (s : State) (e : Byte := 0) : Host.Outcome State Fault Refusal := setCopyLength standard 6 e.toNat s

/-- LEN7: length 9 (R171, R265). -/
def execLen7 (s : State) (e : Byte := 0) : Host.Outcome State Fault Refusal := setCopyLength standard 7 e.toNat s

/-- LEN8: length 10 to 11 (R171, R265). -/
def execLen8 (e : Byte) (s : State) : Host.Outcome State Fault Refusal := setCopyLength standard 8 e.toNat s

/-- LEN9: length 12 to 15 (R171, R265). -/
def execLen9 (e : Byte) (s : State) : Host.Outcome State Fault Refusal := setCopyLength standard 9 e.toNat s

/-- LEN10: length 16 to 23 (R171, R265). -/
def execLen10 (e : Byte) (s : State) : Host.Outcome State Fault Refusal := setCopyLength standard 10 e.toNat s

/-- LEN11: length 24 to 39 (R171, R265). -/
def execLen11 (e : Byte) (s : State) : Host.Outcome State Fault Refusal := setCopyLength standard 11 e.toNat s

/-- LEN12: length 40 to 71 (R171, R265). -/
def execLen12 (e : Byte) (s : State) : Host.Outcome State Fault Refusal := setCopyLength standard 12 e.toNat s

/-- LEN13: length 72 to 135 (R171, R265). -/
def execLen13 (e : Byte) (s : State) : Host.Outcome State Fault Refusal := setCopyLength standard 13 e.toNat s

/-- LEN14: length 136 to 263 (R171, R265). -/
def execLen14 (e : Byte) (s : State) : Host.Outcome State Fault Refusal := setCopyLength standard 14 e.toNat s

/-- LEN15: length 264 to 518 (R171, R265). -/
def execLen15 (e : Byte) (s : State) : Host.Outcome State Fault Refusal := setCopyLength standard 15 e.toNat s

end Sys2Proof.Machine
end

