-- ==== Sys2Proof/Machine/Literal.lean ====
section
/-! DEFINITION. The token LIT (44_decompressor.md R264). -/

namespace Sys2Proof.Machine

/-- LIT `b`: the byte is appended to the output window (R264). -/
def execLit (b : Byte) (s : State) : Host.Outcome State Fault Refusal := storeLiteral standard b s

end Sys2Proof.Machine
end

