-- ==== Sys2Proof/Machine/OffsetClass.lean ====
section
/-! DEFINITION. The offset-class rows DIST0 to DIST63 (30_encoding.md R110, R111, R119; 41_code_tables.md R181;
44_decompressor.md R265, R267, R268): each writes `T_OFF`, checks it against the history and copies. -/

namespace Sys2Proof.Machine

/-- DIST0: offset `(0 << lw) | low` (R111, R265). -/
def execDist0 (low : Low) (s : State) : Host.Outcome State Fault Refusal := copyFromOffset standard 0 low s

/-- DIST1: offset `(1 << lw) | low` (R111, R265). -/
def execDist1 (low : Low) (s : State) : Host.Outcome State Fault Refusal := copyFromOffset standard 1 low s

/-- DIST2: offset `(2 << lw) | low` (R111, R265). -/
def execDist2 (low : Low) (s : State) : Host.Outcome State Fault Refusal := copyFromOffset standard 2 low s

/-- DIST3: offset `(3 << lw) | low` (R111, R265). -/
def execDist3 (low : Low) (s : State) : Host.Outcome State Fault Refusal := copyFromOffset standard 3 low s

/-- DIST4: offset `(4 << lw) | low` (R111, R265). -/
def execDist4 (low : Low) (s : State) : Host.Outcome State Fault Refusal := copyFromOffset standard 4 low s

/-- DIST5: offset `(5 << lw) | low` (R111, R265). -/
def execDist5 (low : Low) (s : State) : Host.Outcome State Fault Refusal := copyFromOffset standard 5 low s

/-- DIST6: offset `(6 << lw) | low` (R111, R265). -/
def execDist6 (low : Low) (s : State) : Host.Outcome State Fault Refusal := copyFromOffset standard 6 low s

/-- DIST7: offset `(7 << lw) | low` (R111, R265). -/
def execDist7 (low : Low) (s : State) : Host.Outcome State Fault Refusal := copyFromOffset standard 7 low s

/-- DIST8: offset `(8 << lw) | low` (R111, R265). -/
def execDist8 (low : Low) (s : State) : Host.Outcome State Fault Refusal := copyFromOffset standard 8 low s

/-- DIST9: offset `(9 << lw) | low` (R111, R265). -/
def execDist9 (low : Low) (s : State) : Host.Outcome State Fault Refusal := copyFromOffset standard 9 low s

/-- DIST10: offset `(10 << lw) | low` (R111, R265). -/
def execDist10 (low : Low) (s : State) : Host.Outcome State Fault Refusal := copyFromOffset standard 10 low s

/-- DIST11: offset `(11 << lw) | low` (R111, R265). -/
def execDist11 (low : Low) (s : State) : Host.Outcome State Fault Refusal := copyFromOffset standard 11 low s

/-- DIST12: offset `(12 << lw) | low` (R111, R265). -/
def execDist12 (low : Low) (s : State) : Host.Outcome State Fault Refusal := copyFromOffset standard 12 low s

/-- DIST13: offset `(13 << lw) | low` (R111, R265). -/
def execDist13 (low : Low) (s : State) : Host.Outcome State Fault Refusal := copyFromOffset standard 13 low s

/-- DIST14: offset `(14 << lw) | low` (R111, R265). -/
def execDist14 (low : Low) (s : State) : Host.Outcome State Fault Refusal := copyFromOffset standard 14 low s

/-- DIST15: offset `(15 << lw) | low` (R111, R265). -/
def execDist15 (low : Low) (s : State) : Host.Outcome State Fault Refusal := copyFromOffset standard 15 low s

/-- DIST16: offset `(16 << lw) | low` (R111, R265). -/
def execDist16 (low : Low) (s : State) : Host.Outcome State Fault Refusal := copyFromOffset standard 16 low s

/-- DIST17: offset `(17 << lw) | low` (R111, R265). -/
def execDist17 (low : Low) (s : State) : Host.Outcome State Fault Refusal := copyFromOffset standard 17 low s

/-- DIST18: offset `(18 << lw) | low` (R111, R265). -/
def execDist18 (low : Low) (s : State) : Host.Outcome State Fault Refusal := copyFromOffset standard 18 low s

/-- DIST19: offset `(19 << lw) | low` (R111, R265). -/
def execDist19 (low : Low) (s : State) : Host.Outcome State Fault Refusal := copyFromOffset standard 19 low s

/-- DIST20: offset `(20 << lw) | low` (R111, R265). -/
def execDist20 (low : Low) (s : State) : Host.Outcome State Fault Refusal := copyFromOffset standard 20 low s

/-- DIST21: offset `(21 << lw) | low` (R111, R265). -/
def execDist21 (low : Low) (s : State) : Host.Outcome State Fault Refusal := copyFromOffset standard 21 low s

/-- DIST22: offset `(22 << lw) | low` (R111, R265). -/
def execDist22 (low : Low) (s : State) : Host.Outcome State Fault Refusal := copyFromOffset standard 22 low s

/-- DIST23: offset `(23 << lw) | low` (R111, R265). -/
def execDist23 (low : Low) (s : State) : Host.Outcome State Fault Refusal := copyFromOffset standard 23 low s

/-- DIST24: offset `(24 << lw) | low` (R111, R265). -/
def execDist24 (low : Low) (s : State) : Host.Outcome State Fault Refusal := copyFromOffset standard 24 low s

/-- DIST25: offset `(25 << lw) | low` (R111, R265). -/
def execDist25 (low : Low) (s : State) : Host.Outcome State Fault Refusal := copyFromOffset standard 25 low s

/-- DIST26: offset `(26 << lw) | low` (R111, R265). -/
def execDist26 (low : Low) (s : State) : Host.Outcome State Fault Refusal := copyFromOffset standard 26 low s

/-- DIST27: offset `(27 << lw) | low` (R111, R265). -/
def execDist27 (low : Low) (s : State) : Host.Outcome State Fault Refusal := copyFromOffset standard 27 low s

/-- DIST28: offset `(28 << lw) | low` (R111, R265). -/
def execDist28 (low : Low) (s : State) : Host.Outcome State Fault Refusal := copyFromOffset standard 28 low s

/-- DIST29: offset `(29 << lw) | low` (R111, R265). -/
def execDist29 (low : Low) (s : State) : Host.Outcome State Fault Refusal := copyFromOffset standard 29 low s

/-- DIST30: offset `(30 << lw) | low` (R111, R265). -/
def execDist30 (low : Low) (s : State) : Host.Outcome State Fault Refusal := copyFromOffset standard 30 low s

/-- DIST31: offset `(31 << lw) | low` (R111, R265). -/
def execDist31 (low : Low) (s : State) : Host.Outcome State Fault Refusal := copyFromOffset standard 31 low s

/-- DIST32: offset `(32 << lw) | low` (R111, R265). -/
def execDist32 (low : Low) (s : State) : Host.Outcome State Fault Refusal := copyFromOffset standard 32 low s

/-- DIST33: offset `(33 << lw) | low` (R111, R265). -/
def execDist33 (low : Low) (s : State) : Host.Outcome State Fault Refusal := copyFromOffset standard 33 low s

/-- DIST34: offset `(34 << lw) | low` (R111, R265). -/
def execDist34 (low : Low) (s : State) : Host.Outcome State Fault Refusal := copyFromOffset standard 34 low s

/-- DIST35: offset `(35 << lw) | low` (R111, R265). -/
def execDist35 (low : Low) (s : State) : Host.Outcome State Fault Refusal := copyFromOffset standard 35 low s

/-- DIST36: offset `(36 << lw) | low` (R111, R265). -/
def execDist36 (low : Low) (s : State) : Host.Outcome State Fault Refusal := copyFromOffset standard 36 low s

/-- DIST37: offset `(37 << lw) | low` (R111, R265). -/
def execDist37 (low : Low) (s : State) : Host.Outcome State Fault Refusal := copyFromOffset standard 37 low s

/-- DIST38: offset `(38 << lw) | low` (R111, R265). -/
def execDist38 (low : Low) (s : State) : Host.Outcome State Fault Refusal := copyFromOffset standard 38 low s

/-- DIST39: offset `(39 << lw) | low` (R111, R265). -/
def execDist39 (low : Low) (s : State) : Host.Outcome State Fault Refusal := copyFromOffset standard 39 low s

/-- DIST40: offset `(40 << lw) | low` (R111, R265). -/
def execDist40 (low : Low) (s : State) : Host.Outcome State Fault Refusal := copyFromOffset standard 40 low s

/-- DIST41: offset `(41 << lw) | low` (R111, R265). -/
def execDist41 (low : Low) (s : State) : Host.Outcome State Fault Refusal := copyFromOffset standard 41 low s

/-- DIST42: offset `(42 << lw) | low` (R111, R265). -/
def execDist42 (low : Low) (s : State) : Host.Outcome State Fault Refusal := copyFromOffset standard 42 low s

/-- DIST43: offset `(43 << lw) | low` (R111, R265). -/
def execDist43 (low : Low) (s : State) : Host.Outcome State Fault Refusal := copyFromOffset standard 43 low s

/-- DIST44: offset `(44 << lw) | low` (R111, R265). -/
def execDist44 (low : Low) (s : State) : Host.Outcome State Fault Refusal := copyFromOffset standard 44 low s

/-- DIST45: offset `(45 << lw) | low` (R111, R265). -/
def execDist45 (low : Low) (s : State) : Host.Outcome State Fault Refusal := copyFromOffset standard 45 low s

/-- DIST46: offset `(46 << lw) | low` (R111, R265). -/
def execDist46 (low : Low) (s : State) : Host.Outcome State Fault Refusal := copyFromOffset standard 46 low s

/-- DIST47: offset `(47 << lw) | low` (R111, R265). -/
def execDist47 (low : Low) (s : State) : Host.Outcome State Fault Refusal := copyFromOffset standard 47 low s

/-- DIST48: offset `(48 << lw) | low` (R111, R265). -/
def execDist48 (low : Low) (s : State) : Host.Outcome State Fault Refusal := copyFromOffset standard 48 low s

/-- DIST49: offset `(49 << lw) | low` (R111, R265). -/
def execDist49 (low : Low) (s : State) : Host.Outcome State Fault Refusal := copyFromOffset standard 49 low s

/-- DIST50: offset `(50 << lw) | low` (R111, R265). -/
def execDist50 (low : Low) (s : State) : Host.Outcome State Fault Refusal := copyFromOffset standard 50 low s

/-- DIST51: offset `(51 << lw) | low` (R111, R265). -/
def execDist51 (low : Low) (s : State) : Host.Outcome State Fault Refusal := copyFromOffset standard 51 low s

/-- DIST52: offset `(52 << lw) | low` (R111, R265). -/
def execDist52 (low : Low) (s : State) : Host.Outcome State Fault Refusal := copyFromOffset standard 52 low s

/-- DIST53: offset `(53 << lw) | low` (R111, R265). -/
def execDist53 (low : Low) (s : State) : Host.Outcome State Fault Refusal := copyFromOffset standard 53 low s

/-- DIST54: offset `(54 << lw) | low` (R111, R265). -/
def execDist54 (low : Low) (s : State) : Host.Outcome State Fault Refusal := copyFromOffset standard 54 low s

/-- DIST55: offset `(55 << lw) | low` (R111, R265). -/
def execDist55 (low : Low) (s : State) : Host.Outcome State Fault Refusal := copyFromOffset standard 55 low s

/-- DIST56: offset `(56 << lw) | low` (R111, R265). -/
def execDist56 (low : Low) (s : State) : Host.Outcome State Fault Refusal := copyFromOffset standard 56 low s

/-- DIST57: offset `(57 << lw) | low` (R111, R265). -/
def execDist57 (low : Low) (s : State) : Host.Outcome State Fault Refusal := copyFromOffset standard 57 low s

/-- DIST58: offset `(58 << lw) | low` (R111, R265). -/
def execDist58 (low : Low) (s : State) : Host.Outcome State Fault Refusal := copyFromOffset standard 58 low s

/-- DIST59: offset `(59 << lw) | low` (R111, R265). -/
def execDist59 (low : Low) (s : State) : Host.Outcome State Fault Refusal := copyFromOffset standard 59 low s

/-- DIST60: offset `(60 << lw) | low` (R111, R265). -/
def execDist60 (low : Low) (s : State) : Host.Outcome State Fault Refusal := copyFromOffset standard 60 low s

/-- DIST61: offset `(61 << lw) | low` (R111, R265). -/
def execDist61 (low : Low) (s : State) : Host.Outcome State Fault Refusal := copyFromOffset standard 61 low s

/-- DIST62: offset `(62 << lw) | low` (R111, R265). -/
def execDist62 (low : Low) (s : State) : Host.Outcome State Fault Refusal := copyFromOffset standard 62 low s

/-- DIST63: offset `(63 << lw) | low` (R111, R265). -/
def execDist63 (low : Low) (s : State) : Host.Outcome State Fault Refusal := copyFromOffset standard 63 low s

end Sys2Proof.Machine
end

