-- ==== Sys2Proof/Machine/Dispatch.lean ====
section
/-! DEFINITION. The meaning of every instruction: one arm per row of spec/opcode_table.json. -/

namespace Sys2Proof.Machine

def exec (i : Instr) (s : State) : Host.Outcome State Fault Refusal :=
  match i with
  | .lit b => Sys2Proof.Machine.execLit b s
  | .len0 e => Sys2Proof.Machine.execLen0 s e
  | .len1 e => Sys2Proof.Machine.execLen1 s e
  | .len2 e => Sys2Proof.Machine.execLen2 s e
  | .len3 e => Sys2Proof.Machine.execLen3 s e
  | .len4 e => Sys2Proof.Machine.execLen4 s e
  | .len5 e => Sys2Proof.Machine.execLen5 s e
  | .len6 e => Sys2Proof.Machine.execLen6 s e
  | .len7 e => Sys2Proof.Machine.execLen7 s e
  | .len8 e => Sys2Proof.Machine.execLen8 e s
  | .len9 e => Sys2Proof.Machine.execLen9 e s
  | .len10 e => Sys2Proof.Machine.execLen10 e s
  | .len11 e => Sys2Proof.Machine.execLen11 e s
  | .len12 e => Sys2Proof.Machine.execLen12 e s
  | .len13 e => Sys2Proof.Machine.execLen13 e s
  | .len14 e => Sys2Proof.Machine.execLen14 e s
  | .len15 e => Sys2Proof.Machine.execLen15 e s
  | .endOfStream => Sys2Proof.Machine.execEnd s
  | .dist0 low => Sys2Proof.Machine.execDist0 low s
  | .dist1 low => Sys2Proof.Machine.execDist1 low s
  | .dist2 low => Sys2Proof.Machine.execDist2 low s
  | .dist3 low => Sys2Proof.Machine.execDist3 low s
  | .dist4 low => Sys2Proof.Machine.execDist4 low s
  | .dist5 low => Sys2Proof.Machine.execDist5 low s
  | .dist6 low => Sys2Proof.Machine.execDist6 low s
  | .dist7 low => Sys2Proof.Machine.execDist7 low s
  | .dist8 low => Sys2Proof.Machine.execDist8 low s
  | .dist9 low => Sys2Proof.Machine.execDist9 low s
  | .dist10 low => Sys2Proof.Machine.execDist10 low s
  | .dist11 low => Sys2Proof.Machine.execDist11 low s
  | .dist12 low => Sys2Proof.Machine.execDist12 low s
  | .dist13 low => Sys2Proof.Machine.execDist13 low s
  | .dist14 low => Sys2Proof.Machine.execDist14 low s
  | .dist15 low => Sys2Proof.Machine.execDist15 low s
  | .dist16 low => Sys2Proof.Machine.execDist16 low s
  | .dist17 low => Sys2Proof.Machine.execDist17 low s
  | .dist18 low => Sys2Proof.Machine.execDist18 low s
  | .dist19 low => Sys2Proof.Machine.execDist19 low s
  | .dist20 low => Sys2Proof.Machine.execDist20 low s
  | .dist21 low => Sys2Proof.Machine.execDist21 low s
  | .dist22 low => Sys2Proof.Machine.execDist22 low s
  | .dist23 low => Sys2Proof.Machine.execDist23 low s
  | .dist24 low => Sys2Proof.Machine.execDist24 low s
  | .dist25 low => Sys2Proof.Machine.execDist25 low s
  | .dist26 low => Sys2Proof.Machine.execDist26 low s
  | .dist27 low => Sys2Proof.Machine.execDist27 low s
  | .dist28 low => Sys2Proof.Machine.execDist28 low s
  | .dist29 low => Sys2Proof.Machine.execDist29 low s
  | .dist30 low => Sys2Proof.Machine.execDist30 low s
  | .dist31 low => Sys2Proof.Machine.execDist31 low s
  | .dist32 low => Sys2Proof.Machine.execDist32 low s
  | .dist33 low => Sys2Proof.Machine.execDist33 low s
  | .dist34 low => Sys2Proof.Machine.execDist34 low s
  | .dist35 low => Sys2Proof.Machine.execDist35 low s
  | .dist36 low => Sys2Proof.Machine.execDist36 low s
  | .dist37 low => Sys2Proof.Machine.execDist37 low s
  | .dist38 low => Sys2Proof.Machine.execDist38 low s
  | .dist39 low => Sys2Proof.Machine.execDist39 low s
  | .dist40 low => Sys2Proof.Machine.execDist40 low s
  | .dist41 low => Sys2Proof.Machine.execDist41 low s
  | .dist42 low => Sys2Proof.Machine.execDist42 low s
  | .dist43 low => Sys2Proof.Machine.execDist43 low s
  | .dist44 low => Sys2Proof.Machine.execDist44 low s
  | .dist45 low => Sys2Proof.Machine.execDist45 low s
  | .dist46 low => Sys2Proof.Machine.execDist46 low s
  | .dist47 low => Sys2Proof.Machine.execDist47 low s
  | .dist48 low => Sys2Proof.Machine.execDist48 low s
  | .dist49 low => Sys2Proof.Machine.execDist49 low s
  | .dist50 low => Sys2Proof.Machine.execDist50 low s
  | .dist51 low => Sys2Proof.Machine.execDist51 low s
  | .dist52 low => Sys2Proof.Machine.execDist52 low s
  | .dist53 low => Sys2Proof.Machine.execDist53 low s
  | .dist54 low => Sys2Proof.Machine.execDist54 low s
  | .dist55 low => Sys2Proof.Machine.execDist55 low s
  | .dist56 low => Sys2Proof.Machine.execDist56 low s
  | .dist57 low => Sys2Proof.Machine.execDist57 low s
  | .dist58 low => Sys2Proof.Machine.execDist58 low s
  | .dist59 low => Sys2Proof.Machine.execDist59 low s
  | .dist60 low => Sys2Proof.Machine.execDist60 low s
  | .dist61 low => Sys2Proof.Machine.execDist61 low s
  | .dist62 low => Sys2Proof.Machine.execDist62 low s
  | .dist63 low => Sys2Proof.Machine.execDist63 low s
  | .hdr0 b => Sys2Proof.Machine.execHdr0 b s
  | .hdr1 w => Sys2Proof.Machine.execHdr1 w s
  | .compress => Sys2Proof.Machine.execCompress s
  | .decompress => Sys2Proof.Machine.execDecompress s

end Sys2Proof.Machine
end

