-- ==== Sys2Proof/Machine/Fetch.lean ====
section
/-! DEFINITION. What the machine does next (10_state.md R31): which agent moves, which instruction DEC takes from its stream
(44_decompressor.md R261 to R265) or the host's command names (45_transfer_harness.md R293 to R296), or which engine step is
due. Taking an instruction from the stream is the advance of the stream position (R275). -/

namespace Sys2Proof.Machine

/-- What a step begins with: an instruction to execute, in the state after its bits were taken, or the outcome of a step that
executes none (an engine's own step, the idle machine, an exception of the fetch, a refusal). -/
inductive Fetched where
  | instr (i : Instr) (s : State)
  | done (o : Host.Outcome State Fault Refusal)

/-- A fetched instruction, or what ended its fetch. -/
def Res.fetched (r : Res Instr) : Fetched :=
  match r with
  | .ok i s => .instr i s
  | .stop o => .done o

/-- One header byte (R262): fewer than two bytes of input is HEADER_SHORT. -/
def fetchHeader (P : Config.Params) (s : State) : Res Instr :=
  (nextByte s).bind fun o t =>
    match o with
    | none => raise P .dec .headerShort t
    | some b => .ok (if t.dec.hdrByte0.isNone then .hdr0 b else .hdr1 b) t

/-- The byte of LIT (R264). -/
def fetchLiteral (P : Config.Params) (s : State) : Res Instr :=
  (readBits P 8 s).bind fun b t => .ok (.lit (BitVec.ofNat 8 b)) t

/-- The length class and extra bits of a COPY, or END (R265). -/
def fetchLength (P : Config.Params) (s : State) : Res Instr :=
  (decodeLen P s).bind fun p t =>
    match lenInstr P.tables p.1 p.2 with
    | some i => .ok i t
    | none => .refuse .noClass

/-- The offset class and low field of a COPY whose length is in `T_LEN` (R265). -/
def fetchOffset (P : Config.Params) (s : State) : Res Instr :=
  (decodeOff P s.dec.tLen s).bind fun p t =>
    match (lowOf (lowWidth t.dec.tLen t.hdr.wsize) p.2).bind (distInstr p.1) with
    | some i => .ok i t
    | none => .refuse .noClass

/-- SELECT (R263) and then the row it selects: 0 is LIT, 1 a length row or END. -/
def fetchToken (P : Config.Params) (s : State) : Res Instr :=
  (readBits P 1 s).bind fun sel t =>
    if sel = 0 then fetchLiteral P (t.setDstate .literal) else fetchLength P (t.setDstate .copy)

/-- What DEC does next, by its FSM register (R261). -/
def decFetch (P : Config.Params) (s : State) : Fetched :=
  match s.dec.dstate with
  | .idle => .done (.refused .engineNotRunning)
  | .header => (fetchHeader P s).fetched
  | .token => (fetchToken P s).fetched
  | .literal => (fetchLiteral P s).fetched
  | .copy => if s.dec.offNext then (fetchOffset P s).fetched else (fetchLength P s).fetched
  | .flush => .done (flushIfFull P s).outcome
  | .eof => .done (finalFlush P s).outcome
  | .done => .done (.refused .engineNotRunning)
  | .fail => .done (.refused .engineNotRunning)

/-- What the machine does while it waits for a command (R293, R296): `CMD` = 0 does nothing, 3 is refused. -/
def idleFetch (s : State) : Fetched :=
  match s.cr.cmd.toNat with
  | 0 => .done (.next s)
  | 1 => .instr .compress s
  | 2 => .instr .decompress s
  | _ => .done (.refused .reservedCommand)

/-- What the machine does next. While `BUSY` = 1 the engine of the command in `CMD` steps; another value there means that the
host wrote the register during the command (R296, R299). -/
def fetch (P : Config.Params) (s : State) : Fetched :=
  if s.busy then
    match s.cr.cmd.toNat with
    | 1 => .done (cmpStep P s).outcome
    | 2 => decFetch P s
    | _ => .done (.refused .hostWhileBusy)
  else idleFetch s

/-! ### Placing an instruction where the next step takes it -/

/-- `s` with DEC running and its bit reader empty, the bytes `bs` being the whole rest of the input. -/
def State.withStream (bs : List Byte) (s : State) : State :=
  { s with
    cr := { s.cr with cmd := 2, status := statusStart }
    tc := { s.tc with inCur := 0, inLen := bs.length }
    hostIn := storeBytes [] 0 bs
    dec := { s.dec with bitbuf := 0, nbits := 0, inPos := 0, inFill := 0, inEof := false } }

/-- `s` with the jump tables as R179 says they are once the header has been accepted. -/
def State.withJumpTables (s : State) : State :=
  { s with dec := { s.dec with
    lenj := jumpTable tPkware.lenBits tPkware.lenCode
    distj := jumpTable tPkware.distBits tPkware.distCode } }

/-- `s` ready to take, in the next step, the instruction whose bytes are `bs`, in the place `ctx` (log 14). -/
def State.placeAt (ctx : Ctx) (w : Nat) (bs : List Byte) (s : State) : State :=
  match ctx with
  | .command => { s with cr := { s.cr with cmd := BitVec.ofNat 2 w, status := 0 } }
  | .header0 => let t := s.withStream bs; { t with dec := { t.dec with dstate := .header, hdrByte0 := none } }
  | .header1 => let t := s.withStream bs; { t with dec := { t.dec with dstate := .header, hdrByte0 := some 0 } }
  | .token => let t := (s.withStream bs).withJumpTables; { t with dec := { t.dec with dstate := .token } }
  | .offset lw =>
    let t := (s.withStream bs).withJumpTables
    { t with
      hdr := { t.hdr with wsize := BitVec.ofNat 8 lw }
      dec := { t.dec with dstate := .copy, offNext := true, tLen := 3 } }

end Sys2Proof.Machine
end

