-- ==== Sys2Proof/Machine/Step.lean ====
section
/-! DEFINITION. One step of the machine, and the state in which a given word is the next instruction. -/

namespace Sys2Proof.Machine

/-- One step (log 11) of the machine with the parameters of R10: the fetched instruction is executed, or the step that executes
none is taken. -/
def step (s : State) : Host.Outcome State Fault Refusal :=
  match fetch standard s with
  | .instr i t => exec i t
  | .done o => o

/-- `s` with the instruction of a word of the opcode table placed where the next step takes it (log 14). -/
def State.withFetchWord (s : State) (nbits w : Nat) : State :=
  s.placeAt (tableCtx nbits w) w (tableBytes nbits w)

end Sys2Proof.Machine
end

