-- ==== Sys2Proof/Machine/Instance.lean ====
section
/-! DEFINITION. The machine with any parameters (00_scope.md R10): `stepWith P` is the model with the code tables, the lazy choice,
the address width and the window size of `P`. `step` is the instance with the values R10 takes (`standard`). -/

namespace Sys2Proof.Machine

/-- What each instruction does under the parameters `P`. -/
def execWith (P : Config.Params) (i : Instr) (s : State) : Host.Outcome State Fault Refusal :=
  match i with
  | .lit b => storeLiteral P b s
  | .len0 e => setCopyLength P 0 e.toNat s
  | .len1 e => setCopyLength P 1 e.toNat s
  | .len2 e => setCopyLength P 2 e.toNat s
  | .len3 e => setCopyLength P 3 e.toNat s
  | .len4 e => setCopyLength P 4 e.toNat s
  | .len5 e => setCopyLength P 5 e.toNat s
  | .len6 e => setCopyLength P 6 e.toNat s
  | .len7 e => setCopyLength P 7 e.toNat s
  | .len8 e => setCopyLength P 8 e.toNat s
  | .len9 e => setCopyLength P 9 e.toNat s
  | .len10 e => setCopyLength P 10 e.toNat s
  | .len11 e => setCopyLength P 11 e.toNat s
  | .len12 e => setCopyLength P 12 e.toNat s
  | .len13 e => setCopyLength P 13 e.toNat s
  | .len14 e => setCopyLength P 14 e.toNat s
  | .len15 e => setCopyLength P 15 e.toNat s
  | .endOfStream => execEnd s
  | .dist0 low => copyFromOffset P 0 low s
  | .dist1 low => copyFromOffset P 1 low s
  | .dist2 low => copyFromOffset P 2 low s
  | .dist3 low => copyFromOffset P 3 low s
  | .dist4 low => copyFromOffset P 4 low s
  | .dist5 low => copyFromOffset P 5 low s
  | .dist6 low => copyFromOffset P 6 low s
  | .dist7 low => copyFromOffset P 7 low s
  | .dist8 low => copyFromOffset P 8 low s
  | .dist9 low => copyFromOffset P 9 low s
  | .dist10 low => copyFromOffset P 10 low s
  | .dist11 low => copyFromOffset P 11 low s
  | .dist12 low => copyFromOffset P 12 low s
  | .dist13 low => copyFromOffset P 13 low s
  | .dist14 low => copyFromOffset P 14 low s
  | .dist15 low => copyFromOffset P 15 low s
  | .dist16 low => copyFromOffset P 16 low s
  | .dist17 low => copyFromOffset P 17 low s
  | .dist18 low => copyFromOffset P 18 low s
  | .dist19 low => copyFromOffset P 19 low s
  | .dist20 low => copyFromOffset P 20 low s
  | .dist21 low => copyFromOffset P 21 low s
  | .dist22 low => copyFromOffset P 22 low s
  | .dist23 low => copyFromOffset P 23 low s
  | .dist24 low => copyFromOffset P 24 low s
  | .dist25 low => copyFromOffset P 25 low s
  | .dist26 low => copyFromOffset P 26 low s
  | .dist27 low => copyFromOffset P 27 low s
  | .dist28 low => copyFromOffset P 28 low s
  | .dist29 low => copyFromOffset P 29 low s
  | .dist30 low => copyFromOffset P 30 low s
  | .dist31 low => copyFromOffset P 31 low s
  | .dist32 low => copyFromOffset P 32 low s
  | .dist33 low => copyFromOffset P 33 low s
  | .dist34 low => copyFromOffset P 34 low s
  | .dist35 low => copyFromOffset P 35 low s
  | .dist36 low => copyFromOffset P 36 low s
  | .dist37 low => copyFromOffset P 37 low s
  | .dist38 low => copyFromOffset P 38 low s
  | .dist39 low => copyFromOffset P 39 low s
  | .dist40 low => copyFromOffset P 40 low s
  | .dist41 low => copyFromOffset P 41 low s
  | .dist42 low => copyFromOffset P 42 low s
  | .dist43 low => copyFromOffset P 43 low s
  | .dist44 low => copyFromOffset P 44 low s
  | .dist45 low => copyFromOffset P 45 low s
  | .dist46 low => copyFromOffset P 46 low s
  | .dist47 low => copyFromOffset P 47 low s
  | .dist48 low => copyFromOffset P 48 low s
  | .dist49 low => copyFromOffset P 49 low s
  | .dist50 low => copyFromOffset P 50 low s
  | .dist51 low => copyFromOffset P 51 low s
  | .dist52 low => copyFromOffset P 52 low s
  | .dist53 low => copyFromOffset P 53 low s
  | .dist54 low => copyFromOffset P 54 low s
  | .dist55 low => copyFromOffset P 55 low s
  | .dist56 low => copyFromOffset P 56 low s
  | .dist57 low => copyFromOffset P 57 low s
  | .dist58 low => copyFromOffset P 58 low s
  | .dist59 low => copyFromOffset P 59 low s
  | .dist60 low => copyFromOffset P 60 low s
  | .dist61 low => copyFromOffset P 61 low s
  | .dist62 low => copyFromOffset P 62 low s
  | .dist63 low => copyFromOffset P 63 low s
  | .hdr0 b => takeByteZero b s
  | .hdr1 w => checkHeader P w s
  | .compress => runCompress P s
  | .decompress => runDecompress P s

/-- One step under the parameters `P`. -/
def stepWith (P : Config.Params) (s : State) : Host.Outcome State Fault Refusal :=
  match fetch P s with
  | .instr i t => execWith P i t
  | .done o => o

end Sys2Proof.Machine
end

