-- ==== Sys2Proof/Machine/Architecture.lean ====
section
/-! DEFINITION. The architectural restatements: FIND_MATCH over the whole input (42_match_finder.md R215), the stream as a
function of the input with its pulls and pushes (43_compressor.md R233, R240), the assembler of token programs
(30_encoding.md R117, R118), and DECOMPRESS as a function with its pulls and pushes (44_decompressor.md R272 to R274).
Nothing here is used by `step`: it is what the staged machine is said to compute. -/

namespace Sys2Proof.Machine

/-! ### FM (R215) -/

/-- `maxlen` of stream position `p` in an input of `n` bytes (R215). -/
def archMaxLen (n p : Nat) : Nat := min Config.maxRep (n - p)

/-- `k(Q)`: how many bytes from `q` on equal those from `p` on, at most `maxlen` (R215). -/
def archRun (x : Memory) (n p q : Nat) : Nat := matchLen x q p (archMaxLen n p)

/-- The candidates of `p`, oldest first: `max(0, P - DSIZE) <= Q < P` (R215). -/
def archCands (dsize p : Nat) : List Nat := List.range' (p - dsize) (p - (p - dsize))

/-- The choice among candidates (R215): the smallest of 516 bytes, else the largest of the longest, else none. `run` is
`k(Q)`. -/
def archPick (run : Nat → Nat) (p : Nat) (cands : List Nat) : Nat × Nat :=
  match cands.find? fun q => run q == Config.maxRep with
  | some q => (Config.maxRep, p - q - 1)
  | none =>
    let k := cands.foldl (fun m q => max m (run q)) 0
    if k < Config.minLen then (0, 0)
    else
      match cands.reverse.find? fun q => run q == k with
      | some q => (k, p - q - 1)
      | none => (0, 0)

/-- `FM(P)` (R215) for the input `x[0 .. n)`. -/
def archMatch (dsize : Nat) (x : Memory) (n p : Nat) : Nat × Nat :=
  if archMaxLen n p < 2 then (0, 0)
  else lengthTwoRule (archPick (archRun x n p) p (archCands dsize p))

/-! ### The stream (R240) -/

/-- The token at stream position `p` and how many bytes it covers (R240). -/
def archToken (P : Config.Params) (dsize : Nat) (x : Memory) (n p : Nat) : Token × Nat :=
  let m := archMatch dsize x n p
  if 2 ≤ m.1 then
    let m' := archMatch dsize x n (p + 1)
    if P.lazyDefer m.1 m.2 m'.1 m'.2 then (.lit (x.read p), 1) else (.copy m.1 m.2, m.1)
  else (.lit (x.read p), 1)

/-- The tokens from stream position `p` on, END left out (R240). Each covers a byte, so `fuel = n - p` is enough. -/
def archTokens (P : Config.Params) (dsize : Nat) (x : Memory) (n p : Nat) : Nat → List Token
  | 0 => []
  | fuel + 1 =>
    if p < n then
      let t := archToken P dsize x n p
      t.1 :: archTokens P dsize x n (p + t.2) fuel
    else []

/-- Has a token an encoding under window size `wsize` (R117, R176)? -/
def Token.encodable (wsize : Byte) (t : Token) : Bool :=
  match t with
  | .lit _ => true
  | .copy len off =>
    decide (Config.minLen ≤ len) && decide (len ≤ Config.maxLen) &&
      (if len = 2 then decide (off < Config.len2OffLimit) else decide (off < 64 * 2 ^ wsize.toNat))

/-- The bits of a token in stream order (R104, R105). -/
def Token.bits (T : Config.CodeTables) (wsize : Byte) (t : Token) : List Bool :=
  match t with
  | .lit b => encode T (.lit b)
  | .copy len off =>
    let i := lenClassOfSym T (len - 2)
    let lw := lowWidth len wsize
    let c := off / 2 ^ lw
    encodeLength T i (len - 2 - lenBase T i) ++ (bitsOfNat (distBits T c) (distCode T c) ++ bitsOfNat lw (lowbits off lw))

/-- The bits of a token program after its header: its tokens and END (R100). -/
def programBits (T : Config.CodeTables) (wsize : Byte) (ts : List Token) : List Bool :=
  match ts with
  | [] => encode T .endOfStream
  | t :: rest => t.bits T wsize ++ programBits T wsize rest

/-- Bits packed into `n` bytes, zero-padded (R71, R73). -/
def packBits : Nat → List Bool → List Byte
  | 0, _ => []
  | n + 1, bits => BitVec.ofNat 8 (natOfBits (bits.take 8)) :: packBits n (bits.drop 8)

/-- Bits packed into bytes, the last one zero-padded. -/
def packAll (bits : List Bool) : List Byte := packBits ((bits.length + 7) / 8) bits

/-- The assembler (R117): header, tokens, END, zero bits to a byte boundary; refused where an operand has no encoding. -/
def assemble (T : Config.CodeTables) (wsize : Byte) (ts : List Token) : Option (List Byte) :=
  if legalWsize wsize && ts.all (·.encodable wsize) then some (0 :: wsize :: packAll (programBits T wsize ts)) else none

/-- The raw header `HDRRAW b0, b1` of a negative test (R117), followed by given bytes. -/
def hdrRaw (b0 b1 : Byte) (rest : List Byte) : List Byte := b0 :: b1 :: rest

/-- The pseudo-statement `COPYD length, distance` (R118). DESIGN CHOICE (log 27): the spec gives no range for `distance`; distance 0,
whose expansion would have the offset -1, stands for no token, so that the assembler has nothing to encode. Safe. -/
def copyD (len distance : Nat) : Option Token := if distance = 0 then none else some (.copy len (distance - 1))

/-- The pseudo-statement `LITS` (R118). -/
def lits (bs : List Byte) : List Token := bs.map .lit

/-- `STREAM(x, N, WSIZE)` (R240). -/
def archStream (P : Config.Params) (wsize : Byte) (x : Memory) (n : Nat) : List Byte :=
  0 :: wsize :: packAll (programBits P.tables wsize (archTokens P (64 * 2 ^ wsize.toNat) x n 0 n))

/-- The sizes of the pulls of COMPRESS on `n` bytes (R233). -/
def archCompressPulls (n : Nat) : List Nat := List.replicate (n / 4096) 4096 ++ [n % 4096]

/-- The sizes of the pushes of a successful COMPRESS of `len` stream bytes (R240). -/
def archCompressPushes (len : Nat) : List Nat :=
  List.replicate (len / 2048) 2048 ++ (if len % 2048 = 0 then [] else [len % 2048])

/-! ### DECOMPRESS (R272, R273) -/

/-- COPY on the output so far (R272): `n` times, the byte `off + 1` places before the end as extended so far. -/
def archCopy (off : Nat) (y : List Byte) : Nat → List Byte
  | 0 => y
  | n + 1 => archCopy off (y ++ [y.getD (y.length - (off + 1)) 0]) n

/-- How DECOMPRESS ends: with the output, or with the first error in stream order. -/
inductive ArchResult where
  | success (y : List Byte)
  | failure (c : Cause)
  deriving DecidableEq, Repr

/-- One token on the output (R272): what it appends, none where a COPY starts before the first byte. -/
def archExec (t : Token) (y : List Byte) : Option (List Byte) :=
  match t with
  | .lit b => some (y ++ [b])
  | .copy len off => if y.length < off + 1 then none else some (archCopy off y len)

/-- A token as the decoder reads it: one or two rows of the opcode table, or END. -/
inductive ArchRead where
  | token (t : Token) (rest : List Bool)
  | theEnd
  | starved
  deriving DecidableEq, Repr

/-- The next token of the bits left (R114). -/
def archRead (T : Config.CodeTables) (wsize : Byte) (bits : List Bool) : ArchRead :=
  match decodeToken T bits with
  | .error _ => .starved
  | .ok (.lit b, rest) => .token (.lit b) rest
  | .ok (.endOfStream, _) => .theEnd
  | .ok (i, rest) =>
    match i.lenParts T with
    | none => .starved
    | some (cl, e) =>
      match decodeOffset T (lowWidth (copyLength T cl e) wsize) rest with
      | .error _ => .starved
      | .ok (d, rest') =>
        match d.distParts with
        | none => .starved
        | some (c, low) => .token (.copy (copyLength T cl e) (offsetOf c low)) rest'

/-- The tokens executed in order (R272, R273): `y` is the output so far, of which `pushed` bytes have left. After a token that
leaves 4096 or more bytes unpushed, 4096 of them leave; at END the rest. Each token takes a bit, so `fuel` above the number of
bits left is enough. -/
def archSteps (T : Config.CodeTables) (wsize : Byte) (cap : Nat) (bits : List Bool) (y : List Byte) (pushed : Nat) : Nat → ArchResult
  | 0 => .failure .starved
  | fuel + 1 =>
    match archRead T wsize bits with
    | .starved => .failure .starved
    | .theEnd => if y.length ≠ pushed ∧ cap < y.length then .failure .push else .success y
    | .token t rest =>
      match archExec t y with
      | none => .failure .distBeforeStart
      | some y' =>
        if y'.length < pushed + 4096 then archSteps T wsize cap rest y' pushed fuel
        else if cap < pushed + 4096 then .failure .push
        else archSteps T wsize cap rest y' (pushed + 4096) fuel

/-- DECOMPRESS as a function of its input and capacity (R272). -/
def archDecompress (T : Config.CodeTables) (input : List Byte) (cap : Nat) : ArchResult :=
  match input with
  | b0 :: b1 :: rest =>
    if b0 ≠ 0 then .failure .badLitmode
    else if legalWsize b1 then archSteps T b1 cap (bitsOfBytes rest) [] 0 (8 * rest.length + 1)
    else .failure .badWsize
  | _ => .failure .headerShort

/-- The sizes of the pulls of DECOMPRESS when it has taken `m` bytes of the input, and looked for one more or not (R274). -/
def archDecompressPulls (m : Nat) (eof : Bool) : List Nat :=
  List.replicate (m / 2048) 2048 ++ (if m % 2048 = 0 then [] else [m % 2048]) ++ (if eof then [0] else [])

/-- The sizes of the pushes of a successful DECOMPRESS of `len` output bytes (R273). -/
def archDecompressPushes (len : Nat) : List Nat :=
  List.replicate (len / 4096) 4096 ++ (if len % 4096 = 0 then [] else [len % 4096])

end Sys2Proof.Machine
end

