-- ==== Sys2Proof/Machine/HostPort.lean ====
section
/-! DEFINITION. The host's side of the Transfer Harness (10_state.md R33; 20_memory.md R81; 45_transfer_harness.md R293, R296, R299,
R300; 60_exceptions.md R320): writing an operand register, a byte of a host buffer or the command register, and reading what the
host may read. The host is no agent of `step`; these are what it does between commands. A write while a command runs has no rule
and is refused (R81, R299, 93_implementation_defined.md U8); a read the host may not make answers nothing. -/

namespace Sys2Proof.Machine

/-! ### Writes -/

/-- May the host write: no command runs, and none that was written to `CMD` is yet to be taken up (R293, R299 H1 and H2;
log 14). -/
def State.accepts (s : State) : Bool := !s.busy && s.cr.cmd == 0

/-- A host write: done between commands, else refused (R81, R296, R299 H1 and H2). -/
def hostWrite (s t : State) : Host.Outcome State Fault Refusal :=
  if s.accepts then .next t else .refused .hostWhileBusy

/-- A host write of the value `n` to a register of `ADDR_W` bits: a wider value is refused (U19). -/
def hostWriteLength (P : Config.Params) (n : Nat) (s t : State) : Host.Outcome State Fault Refusal :=
  if s.accepts && decide (2 ^ P.addrW ≤ n) then .refused .valueTooWide else hostWrite s t

/-- Write `WSIZE_CFG` (R33). -/
def hostSetWsizeCfg (w : Byte) (s : State) : Host.Outcome State Fault Refusal :=
  hostWrite s { s with cr := { s.cr with wsizeCfg := w } }

/-- Write `ARG_IN_LEN` (R33), which holds `ADDR_W` bits: a longer input is not representable (U19). -/
def hostSetInLen (P : Config.Params) (n : Nat) (s : State) : Host.Outcome State Fault Refusal :=
  hostWriteLength P n s { s with cr := { s.cr with argInLen := n } }

/-- Write `ARG_OUT_CAP` (R33), which holds `ADDR_W` bits. -/
def hostSetOutCap (P : Config.Params) (n : Nat) (s : State) : Host.Outcome State Fault Refusal :=
  hostWriteLength P n s { s with cr := { s.cr with argOutCap := n } }

/-- Write byte `a` of `HOST_IN` (R293, R320). -/
def hostPutInByte (a : Nat) (b : Byte) (s : State) : Host.Outcome State Fault Refusal :=
  hostWrite s { s with hostIn := s.hostIn.write a b }

/-- Write byte `a` of `HOST_OUT`, the host's own buffer (R299 H2). -/
def hostPutOutByte (a : Nat) (b : Byte) (s : State) : Host.Outcome State Fault Refusal :=
  hostWrite s { s with hostOut := s.hostOut.write a b }

/-- Write `CMD` (R293, R296). The write of 1 or 2 starts the command: `STATUS` becomes `BUSY`, the engine's state is initialised.
The write of 0 does nothing; that of 3 is refused. -/
def hostSetCmd (P : Config.Params) (c : BitVec 2) (s : State) : Host.Outcome State Fault Refusal :=
  if s.accepts then
    match c.toNat with
    | 0 => .next s
    | 1 => runCompress P s
    | 2 => runDecompress P s
    | _ => .refused .reservedCommand
  else .refused .hostWhileBusy

/-- The state in which the host has placed an input and the operands, `CMD` not yet written (R293, R344). -/
def State.withOperands (input : List Byte) (wsizeCfg : Byte) (outCap : Nat) (s : State) : State :=
  { s with
    cr := { s.cr with wsizeCfg := wsizeCfg, argInLen := input.length, argOutCap := outCap }
    hostIn := storeBytes s.hostIn 0 input }

/-- How the host runs a command (R293): the input and the operands, and `CMD` last (R344); refused where one of the writes is. -/
def hostIssue (P : Config.Params) (c : BitVec 2) (input : List Byte) (wsizeCfg : Byte) (outCap : Nat) (s : State) :
    Host.Outcome State Fault Refusal :=
  if !s.accepts then .refused .hostWhileBusy
  else if 2 ^ P.addrW ≤ input.length ∨ 2 ^ P.addrW ≤ outCap then .refused .valueTooWide
  else hostSetCmd P c (s.withOperands input wsizeCfg outCap)

/-! ### Reads (R33, R81, R320: all only while `BUSY` = 0) -/

/-- What the host may read between commands (log 19). -/
def hostRead (s : State) (v : α) : Option α := if s.busy then none else some v

/-- What the host may read only of a completed command: the result registers and `HOST_OUT`, after `DONE` = 1 (R81, R353;
log 19). -/
def hostReadResult (s : State) (v : α) : Option α := if s.busy || !statusDone s.cr.status then none else some v

/-- Read `STATUS`, by which completion is observed (R298); the host does not step during a command (R81). -/
def hostStatus (s : State) : Option Byte := hostRead s s.cr.status

/-- Read `WSIZE_CFG` (R33). -/
def hostWsizeCfg (s : State) : Option Byte := hostRead s s.cr.wsizeCfg

/-- Read `ARG_IN_LEN` (R33). -/
def hostInLen (s : State) : Option Nat := hostRead s s.cr.argInLen

/-- Read `ARG_OUT_CAP` (R33, R293, R320), as a result register (R81; log 19). -/
def hostOutCap (s : State) : Option Nat := hostReadResult s s.cr.argOutCap

/-- Read byte `a` of `HOST_OUT` (R81, R293, R320). -/
def hostOutByte (a : Nat) (s : State) : Option Byte := hostReadResult s (s.hostOut.read a)

/-- The pulls and pushes of the last command, in the order they were made, which a host sees that watches its buffers being
accessed (R300). -/
def hostTransfers (s : State) : List Transfer := s.xfers.reverse

end Sys2Proof.Machine
end

