-- ==== Sys2Proof/Safety.lean ====
section
/-! DEFINITION. What the claims speak of: the bits DEC has still to read and those CMP has written, the output of a command so
far, the invariants of the machine (10_state.md bounds columns, 20_memory.md R76 to R79, 40_bit_channel.md R140 and R150,
44_decompressor.md R269), the result a running command is bound to (43_compressor.md R240, 44_decompressor.md R272), and the
frames of operations. -/

namespace Sys2Proof.Machine

/-! ### Views of the state -/

/-- The stream bytes DEC has not taken: what `INB` still holds, then what `HOST_IN` still holds (R150). -/
def State.restBytes (s : State) : List Byte :=
  loadBytes s.dec.inb s.dec.inPos (s.dec.inFill - s.dec.inPos) ++
    loadBytes s.hostIn s.tc.inCur (s.tc.inLen - s.tc.inCur)

/-- The stream bits DEC has not consumed: `BITBUF`, `INB`, `HOST_IN` (R150, R154). -/
def State.restBits (s : State) : List Bool :=
  bitsOfNat s.dec.nbits s.dec.bitbuf.toNat ++ bitsOfBytes s.restBytes

/-- The bytes DEC has taken from the stream (R31). -/
def State.bytesTaken (s : State) : Nat := s.tc.inCur - (s.dec.inFill - s.dec.inPos)

/-- The stream position of DEC: `8 * (bytes taken from the stream) - NBITS` (R31). -/
def State.decPosition (s : State) : Nat := 8 * s.bytesTaken - s.dec.nbits

/-- All bits of the input, in stream order (R71, R78). -/
def State.inputBits (s : State) : List Bool := bitsOfBytes (loadBytes s.hostIn 0 s.tc.inLen)

/-- The complete bytes CMP has produced: those pushed, then those in `OUTB` (R78, R140). -/
def State.packedBytes (s : State) : List Byte :=
  loadBytes s.hostOut 0 s.tc.outCur ++ loadBytes s.cmp.outb 0 s.cmp.outPos

/-- The bits CMP has written, in stream order (R140). -/
def State.packedBits (s : State) : List Bool :=
  bitsOfBytes s.packedBytes ++ bitsOfNat s.cmp.nacc s.cmp.acc.toNat

/-- The output of DEC so far: the bytes pushed, then those in `WIN` not yet pushed (R77, R269). -/
def State.decOutput (s : State) : List Byte :=
  loadBytes s.hostOut 0 s.tc.outCur ++ loadBytes s.dec.win Config.decHist (s.dec.wpos - Config.decHist)

/-- One past the last byte of `WORK` that holds stream data: `BASE` before the pull of a round, `LOAD_END` after it (R76). -/
def State.validEnd (s : State) : Nat := if s.cmp.cstate = .staging then s.base else s.cmp.loadEnd

/-- The stream position of CMP: which input byte `WORK[CUR]` is (R31, R215). -/
def State.cmpPosition (s : State) : Nat := s.tc.inCur + s.cmp.cur - s.validEnd

/-- The first position of the index: it holds the `NIDX` positions before `LOAD_END - 1` (R202). -/
def State.indexLo (s : State) : Nat := s.cmp.loadEnd - 1 - s.cmp.nidx

/-- The engine the running command belongs to (R8, R116). -/
def State.running (s : State) (e : Engine) : Prop :=
  s.busy = true ∧ s.cr.cmd = (match e with | .cmp => 1 | .dec => 2)

/-! ### Invariants -/

/-- Every listed address of a memory lies below `n`. -/
def Memory.below (n : Nat) (m : Memory) : Bool := m.all fun c => decide (c.1 < n)

/-- The memories are in canonical form and the engine memories lie inside their sizes (R41, R79). -/
structure MemoriesOk (P : Config.Params) (s : State) : Prop where
  hostIn  : s.hostIn.wf = true
  hostOut : s.hostOut.wf = true
  work    : s.cmp.work.wf = true
  outb    : s.cmp.outb.wf = true
  inb     : s.dec.inb.wf = true
  win     : s.dec.win.wf = true
  workIn  : s.cmp.work.below 8708 = true
  outbIn  : s.cmp.outb.below Config.outbSize = true
  inbIn   : s.dec.inb.below Config.inbSize = true
  winIn   : s.dec.win.below P.decWinSize = true
  htab    : s.cmp.htab.length = Config.nBucket
  idx     : s.cmp.idx.length = Config.idxSize

/-- Every register the spec gives as a number fits the width the spec gives it, at all times (R32, R33, R35 to R38; R11: no rule
overflows them). -/
structure WidthsOk (P : Config.Params) (s : State) : Prop where
  argInLen : s.cr.argInLen < 2 ^ P.addrW
  argOutCap : s.cr.argOutCap < 2 ^ P.addrW
  inCur    : s.tc.inCur ≤ s.tc.inLen
  inLen    : s.tc.inLen < 2 ^ P.addrW
  outCur   : s.tc.outCur ≤ s.tc.outLimit
  outLimit : s.tc.outLimit < 2 ^ P.addrW
  cur      : s.cmp.cur < 2 ^ 14
  nload    : s.cmp.nload ≤ 4096
  loadEnd  : s.cmp.loadEnd < 2 ^ 14
  scanEnd  : s.cmp.scanEnd < 2 ^ 14
  round    : s.cmp.round ≤ 2
  mLen     : s.cmp.mLen ≤ 516
  mOff     : s.cmp.mOff < 2 ^ 12
  nLen     : s.cmp.nLen ≤ 516
  nOff     : s.cmp.nOff < 2 ^ 12
  nidx     : s.cmp.nidx ≤ 8707
  nacc     : s.cmp.nacc ≤ 7
  outPos   : s.cmp.outPos ≤ 2048
  nbits    : s.dec.nbits ≤ 16
  inPos    : s.dec.inPos ≤ 2048
  inFill   : s.dec.inFill ≤ 2048
  wposLo   : 4096 ≤ s.dec.wpos
  wposHi   : s.dec.wpos ≤ 8709
  hist     : s.dec.hist ≤ 4096
  tLen     : s.dec.tLen ≤ 518
  tOff     : s.dec.tOff < 2 ^ 12
  src      : s.dec.src ≤ 8708

/-- The write side between operations (R140) and the codeword tables (R173). -/
structure WriterOk (T : Config.CodeTables) (s : State) : Prop where
  nacc   : s.cmp.nacc ≤ 7
  acc    : s.cmp.acc.toNat < 2 ^ s.cmp.nacc
  outPos : s.cmp.outPos ≤ 2047
  outb   : s.cmp.outb.wf = true
  cwv    : s.cmp.cwv = builtCwv T
  cwb    : s.cmp.cwb = builtCwb T

/-- The read side between operations (R150, R151). -/
structure ReaderOk (s : State) : Prop where
  nbits  : s.dec.nbits ≤ 16
  bitbuf : s.dec.bitbuf.toNat < 2 ^ s.dec.nbits
  inPos  : s.dec.inPos ≤ s.dec.inFill
  inFill : s.dec.inFill ≤ 2048
  taken  : s.dec.inFill ≤ s.tc.inCur
  eof    : s.dec.inEof = true → s.dec.inPos = s.dec.inFill ∧ s.tc.inLen ≤ s.tc.inCur
  inb    : s.dec.inb.wf = true

/-- A running CMP (R231 to R238; the layout of R76). -/
structure CmpRunning (T : Config.CodeTables) (s : State) : Prop where
  stop      : s.tc.stop = false
  wsize     : legalWsize s.hdr.wsize = true
  litmode   : s.hdr.litmode = 0
  writer    : WriterOk T s
  state     : s.cmp.cstate ∈ [.staging, .analyze, .emit, .shift, .terminate]
  curLo     : s.dsize ≤ s.cmp.cur
  curValid  : s.loValid ≤ s.cmp.cur
  curHi     : s.cmp.cur ≤ s.validEnd
  position  : s.validEnd ≤ s.tc.inCur + s.loValid
  fromStart : 0 < s.loValid → s.validEnd = s.tc.inCur + s.loValid
  endSeen   : s.cmp.ended = true → s.tc.inCur = s.tc.inLen
  staging   : s.cmp.cstate = .staging → s.cmp.ended = false
  loaded    : s.cmp.cstate ≠ .staging → s.cmp.loadEnd = s.base + s.cmp.nload ∧
                s.cmp.scanEnd = s.dsize + s.cmp.nload + (if s.cmp.ended then 516 else 0) ∧
                (s.cmp.ended = false → s.cmp.nload = 4096)
  analyze   : s.cmp.cstate = .analyze → s.cmp.cur ≤ s.base
  index     : s.cmp.cstate = .emit → ∀ x ∈ s.cmp.htab, x ≤ s.cmp.nidx
  shift     : s.cmp.cstate = .shift → s.cmp.ended = false ∧ s.cmp.scanEnd ≤ s.cmp.cur
  terminate : s.cmp.cstate = .terminate → s.cmp.ended = true ∧ s.cmp.cur = s.cmp.loadEnd

/-- DEC after its header was accepted (R262, R267 to R271). -/
structure DecTables (T : Config.CodeTables) (s : State) : Prop where
  wsize   : legalWsize s.hdr.wsize = true
  litmode : s.hdr.litmode = 0
  lenj    : s.dec.lenj = builtLenj T
  distj   : s.dec.distj = builtDistj T
  hdr     : s.dec.hdrByte0 = none
  hist    : s.dec.hist = min (s.tc.outCur + (s.dec.wpos - 4096)) 4096
  pushed  : s.tc.outCur % 4096 = 0

/-- A running DEC (R261 to R271). -/
structure DecRunning (T : Config.CodeTables) (s : State) : Prop where
  stop   : s.tc.stop = false
  reader : ReaderOk s
  state  : s.dec.dstate ∈ [.header, .token, .copy, .flush, .eof]
  header : s.dec.dstate = .header → s.dec.nbits = 0 ∧ s.tc.outCur = 0 ∧ s.dec.offNext = false
  tables : s.dec.dstate ≠ .header → DecTables T s
  copy   : s.dec.dstate = .copy → 2 ≤ s.dec.tLen ∧ s.dec.tLen ≤ 518
  offset : s.dec.offNext = decide (s.dec.dstate = .copy)
  wpos   : s.dec.dstate ≠ .flush → s.dec.wpos ≤ 8191

/-- The invariant of the machine with the parameters `P`. -/
structure Inv (P : Config.Params) (s : State) : Prop where
  memories : MemoriesOk P s
  widths   : WidthsOk P s
  busyCmd  : s.busy = true → s.cr.cmd = 1 ∨ s.cr.cmd = 2
  cmp      : s.running .cmp → CmpRunning P.tables s
  dec      : s.running .dec → DecRunning P.tables s
  success  : statusSuccess s.cr.status = true → s.tc.stop = false

/-- What `WORK` and the index hold while CMP runs: the input bytes at and before the load region (R76, R82), and, in `C_EMIT`,
each bucket's positions oldest first (R203), reaching back far enough for every later search (R204). -/
structure CmpContent (s : State) : Prop where
  work   : ∀ j, j < s.validEnd → s.loValid ≤ j → s.cmp.work.read j = s.hostIn.read (s.tc.inCur + j - s.validEnd)
  reach  : s.cmp.cstate = .emit → s.indexLo ≤ s.idxLo
  bucket : s.cmp.cstate = .emit → ∀ h, h < 2304 →
    s.bucket h = (List.range' s.indexLo s.cmp.nidx).filter fun q => hashAt s.cmp.work q == h

/-- What the bit reader holds while DEC runs: its unconsumed bits are those of the input from the stream position on (R150). -/
def ReaderOnStream (s : State) : Prop := s.restBits = s.inputBits.drop s.decPosition

/-- The window invariant of R269: the `HIST` cells below `WPOS` hold the last bytes of the output; below 4096 those are bytes
already pushed. -/
def WindowOk (s : State) : Prop :=
  ∀ j, j < 4096 → s.dec.wpos ≤ j + s.dec.hist → s.dec.win.read j = s.hostOut.read (s.tc.outCur + j - 4096)

/-! ### What a running command is bound to -/

/-- The stream a running COMPRESS is bound to produce: the bits written, then those of the tokens from the cursor on and END,
packed (R240). -/
def State.cmpPromise (P : Config.Params) (s : State) : List Byte :=
  packAll (s.packedBits ++
    programBits P.tables s.hdr.wsize
      (archTokens P s.dsize s.hostIn s.tc.inLen s.cmpPosition (s.tc.inLen - s.cmpPosition)))

/-- The rest of a DECOMPRESS after a token: the flush test, then the tokens that follow (R270, R272, R273). -/
def archAfterToken (T : Config.CodeTables) (wsize : Byte) (cap : Nat) (bits : List Bool) (y : List Byte) (pushed : Nat) : ArchResult :=
  if y.length < pushed + 4096 then archSteps T wsize cap bits y pushed (bits.length + 1)
  else if cap < pushed + 4096 then .failure .push
  else archSteps T wsize cap bits y (pushed + 4096) (bits.length + 1)

/-- The rest of a DECOMPRESS after a copy length: the offset, the copy, the tokens that follow (R265, R272). -/
def archAfterLength (T : Config.CodeTables) (wsize : Byte) (cap len : Nat) (bits : List Bool) (y : List Byte) (pushed : Nat) : ArchResult :=
  match decodeOffset T (lowWidth len wsize) bits with
  | .error _ => .failure .starved
  | .ok (d, rest) =>
    match d.distParts with
    | none => .failure .starved
    | some (c, low) =>
      match archExec (.copy len (offsetOf c low)) y with
      | none => .failure .distBeforeStart
      | some y' => archAfterToken T wsize cap rest y' pushed

/-- The cause whose number `STATUS.CAUSE` holds, if it is one (R311). -/
def causeOf (n : Nat) : Option Cause :=
  match n with
  | 1 => some .badLitmode
  | 2 => some .badWsize
  | 3 => some .badWsizeCfg
  | 4 => some .push
  | 5 => some .headerShort
  | 6 => some .starved
  | 7 => some .distBeforeStart
  | _ => none

/-- The result a completed command shows the host (R297, R300): the output on success, the cause on failure. -/
def State.result (s : State) : Option ArchResult :=
  if statusSuccess s.cr.status then some (.success (loadBytes s.hostOut 0 s.cr.argOutCap))
  else (causeOf (statusCause s.cr.status).toNat).map .failure

/-- The result a DECOMPRESS is bound to: running, by the bits it has still to read and its output so far (R272); completed, by
what it shows. -/
def State.decPromise (T : Config.CodeTables) (s : State) : Option ArchResult :=
  if s.busy then
    match s.dec.dstate with
    | .header => some (archDecompress T (s.dec.hdrByte0.toList ++ s.restBytes) s.tc.outLimit)
    | .token => some (archSteps T s.hdr.wsize s.tc.outLimit s.restBits s.decOutput s.tc.outCur (s.restBits.length + 1))
    | .copy => some (archAfterLength T s.hdr.wsize s.tc.outLimit s.dec.tLen s.restBits s.decOutput s.tc.outCur)
    | .flush => some (archAfterToken T s.hdr.wsize s.tc.outLimit s.restBits s.decOutput s.tc.outCur)
    | .eof =>
      some (if s.decOutput.length ≠ s.tc.outCur ∧ s.tc.outLimit < s.decOutput.length then .failure .push
        else .success s.decOutput)
    | .idle => none
    | .literal => none
    | .done => none
    | .fail => none
  else s.result

/-! ### Frames -/

/-- `t` is `s` but for the bit reader, the input cursor and the log of transfers. -/
def SameButReader (s t : State) : Prop :=
  t = { s with
    tc := { s.tc with inCur := t.tc.inCur }
    dec := { s.dec with
      bitbuf := t.dec.bitbuf, nbits := t.dec.nbits, inPos := t.dec.inPos, inFill := t.dec.inFill
      inEof := t.dec.inEof, inb := t.dec.inb }
    xfers := t.xfers }

/-- `t` is `s` but for the bit writer, the output cursor, `STOP`, `HOST_OUT` and the log of transfers. -/
def SameButWriter (s t : State) : Prop :=
  t = { s with
    tc := { s.tc with outCur := t.tc.outCur, stop := t.tc.stop }
    cmp := { s.cmp with acc := t.cmp.acc, nacc := t.cmp.nacc, outPos := t.cmp.outPos, outb := t.cmp.outb }
    hostOut := t.hostOut
    xfers := t.xfers }

/-! ### Transfers (R75, R300) -/

/-- The sizes of the pulls of the running or last command, in the order they were made. -/
def State.pulls (s : State) : List Nat :=
  (hostTransfers s).filterMap fun x =>
    match x with
    | .pull n => some n
    | .push _ => none

/-- The sizes of its pushes, in the order they were made. -/
def State.pushes (s : State) : List Nat :=
  (hostTransfers s).filterMap fun x =>
    match x with
    | .pull _ => none
    | .push n => some n

/-- The transfers of a running CMP: one pull of 4096 bytes a round, the short one last; pushes of 2048 bytes (R75, R233, R240). -/
structure CmpTransfers (s : State) : Prop where
  pulls  : s.pulls = List.replicate (s.tc.inCur / 4096) 4096 ++ (if s.cmp.ended then [s.tc.inCur % 4096] else [])
  whole  : s.cmp.ended = false → s.tc.inCur % 4096 = 0
  pushes : s.pushes = List.replicate (s.tc.outCur / 2048) 2048
  chunks : s.tc.outCur % 2048 = 0

/-- The transfers of a running DEC: pulls of 2048 bytes on demand, a short one only at the end of the input, none after one of 0;
pushes of 4096 bytes (R75, R273, R274). -/
structure DecTransfers (s : State) : Prop where
  pulls  : s.pulls = archDecompressPulls s.tc.inCur s.dec.inEof
  whole  : s.tc.inCur % 2048 ≠ 0 → s.tc.inCur = s.tc.inLen
  pushes : s.pushes = List.replicate (s.tc.outCur / 4096) 4096
  chunks : s.tc.outCur % 4096 = 0

/-! ### Runs -/

/-- `n` steps in a row that all answer a next state. -/
def stepN : Nat → State → Option State
  | 0, s => some s
  | n + 1, s =>
    match step s with
    | .next t => stepN n t
    | .fault _ => none
    | .refused _ => none

end Sys2Proof.Machine
end

