-- ==== Sys2Proof/Certificates/Slice0/Obligations.lean ====
section
/-! DEFINITION. The statements for the provers, each a rule or a consequence of rules of spec/ about the machine. Statements
about operations that take the parameters of R10 hold for all of them, or for all that meet R172; `exec` and `step` are the
machine with the values R10 takes for them, `standard` (logs 2, 3 and 4). -/

open Sys2Proof Sys2Proof.Machine

/-! ### Encodings -/

/-- For any well-formed code tables, decoding an encoded well-formed instruction, whatever bits follow it, gives it back and
leaves those bits (30_encoding.md R104 to R114, R116). -/
def Obligations.DecodeOfEncodedInstruction : Prop :=
  ∀ (T : Config.CodeTables) (i : Instr) (rest : List Bool), T.wf = true → i.wf T = true →
    decode T i.ctx (encode T i ++ rest) = .ok (i, rest)

/-- For any well-formed code tables, a bit string that decodes is the encoding of the instruction it decodes to, followed by the
bits left: every word has one meaning in its place, and no bit is dropped (R105, R112, R114). -/
def Obligations.EncodeOfDecodedBits : Prop :=
  ∀ (T : Config.CodeTables) (ctx : Ctx) (bits : List Bool) (i : Instr) (rest : List Bool), T.wf = true →
    decode T ctx bits = .ok (i, rest) → bits = encode T i ++ rest ∧ i.ctx = ctx

/-- For any well-formed code tables no bit pattern of the token stream is illegal: decoding fails only where the input ends, and
never with as many bits left as the longest codeword (R113, R115, R172). -/
def Obligations.EveryTokenBitStringDecodes : Prop :=
  ∀ T : Config.CodeTables, T.wf = true →
    (∀ bits e, decode T .token bits = .error e → e = .starved ∧ bits.length < 16) ∧
    (∀ lw, lw = 2 ∨ lw = 4 ∨ lw = 5 ∨ lw = 6 → ∀ bits e, decode T (.offset lw) bits = .error e →
      e = .starved ∧ bits.length < 8 + lw)

/-- Words written out from the encodings of the spec decode to the instructions they stand for: LIT 0x41 (R104), length 11 and
offset 1 at `WSIZE` = 4 (R176), END (R108), the header bytes of R262, the commands (R116). The class codes are those of
`T_PKWARE` (log 2). -/
def Obligations.SpecWordsDecode : Prop :=
  decode tPkware .token [false, true, false, false, false, false, false, true, false] = .ok (.lit 0x41, []) ∧
  decode tPkware .token [true, false, false, true, false, false, true] = .ok (.len8 1, []) ∧
  decode tPkware (.offset 4) [true, true, true, false, false, false] = .ok (.dist0 (.w4 1), []) ∧
  decode tPkware .token (true :: false :: false :: false :: false :: false :: false :: false :: List.replicate 8 true) =
    .ok (.endOfStream, []) ∧
  decode tPkware .header0 (List.replicate 8 false) = .ok (.hdr0 0, []) ∧
  decode tPkware .header1 [false, true, true, false, false, false, false, false] = .ok (.hdr1 6, []) ∧
  decode tPkware .command [true, false] = .ok (.compress, []) ∧
  decode tPkware .command [false, true] = .ok (.decompress, [])

/-- The default tables meet every condition the spec puts on `T` (R172, W1 to W5); the tables are the model's choice (log 2). -/
def Obligations.DefaultTablesAreWellFormed : Prop := tPkware.wf = true

/-- BUILD_JUMP: for any class codes that fit their widths, each cell holds the first class whose code the pattern begins with;
and for well-formed tables each cell names the one class there is (R172, R178, R179). -/
def Obligations.JumpTablesNameTheClass : Prop :=
  (∀ bits codes : List Nat, (∀ p ∈ bits.zip codes, p.2 < 2 ^ p.1) → ∀ x, x < 256 →
    (buildJump bits codes).getD x 0 = (classOf bits codes x 0).getD 0) ∧
  (∀ T : Config.CodeTables, T.wf = true →
    (∀ x i, x < 256 → i < 16 → ((builtLenj T).getD x 0 = i ↔ lowbits x (lenBits T i) = lenCode T i)) ∧
    (∀ x c, x < 256 → c < 64 → ((builtDistj T).getD x 0 = c ↔ lowbits x (distBits T c) = distCode T c)))

/-- BUILD_CW, for any well-formed code tables: the cell of each symbol holds, at its width, the bits of the instruction the
symbol stands for (R107 to R109, R173, R174). -/
def Obligations.CodewordTableHoldsTheEncodings : Prop :=
  ∀ T : Config.CodeTables, T.wf = true →
    (builtCwv T).length = 774 ∧ (builtCwb T).length = 774 ∧
    (∀ b : Byte, bitsOfNat ((builtCwb T).getD b.toNat 0) ((builtCwv T).getD b.toNat 0) = encode T (.lit b)) ∧
    (∀ (i : Instr) (c e : Nat), i.wf T = true → i.lenParts T = some (c, e) →
      bitsOfNat ((builtCwb T).getD (256 + lenBase T c + e) 0) ((builtCwv T).getD (256 + lenBase T c + e) 0) = encode T i)

/-! ### A step runs the decoded instruction -/

/-- A step is the execution of the instruction the fetch answers, or what the fetch answers instead; and between commands,
where `CMD` is read as an instruction, a step executes the command it decodes to and adds nothing (R116, R293). What one step
is, is the model's choice (log 11). -/
def Obligations.StepRunsTheDecodedInstruction : Prop :=
  (∀ s i t, fetch standard s = .instr i t → step s = exec i t) ∧
  (∀ s o, fetch standard s = .done o → step s = o) ∧
  (∀ (s : State) (i : Instr), s.busy = false →
    decode tPkware .command (bitsOfNat 2 s.cr.cmd.toNat) = .ok (i, []) → step s = exec i s)

/-- In `D_TOKEN`, when the stream bits at the stream position decode to an instruction, a step executes it, in a state whose
stream position is just after it and in which nothing else has changed but the state of R261 it passes through (R263 to R265,
R275). The jump table is that of `T_PKWARE` (log 2); that SELECT and the row it selects are one step is the model's choice (log
11). -/
def Obligations.StepRunsTheDecodedToken : Prop :=
  ∀ (s : State) (i : Instr) (rest : List Bool),
    s.running .dec → ReaderOk s → s.dec.lenj = builtLenj tPkware → s.dec.dstate = .token →
    decode tPkware .token s.restBits = .ok (i, rest) →
    ∃ t, step s = exec i t ∧ t.restBits = rest ∧ ReaderOk t ∧
      SameButReader (s.setDstate (if i.lenParts tPkware = none then .literal else .copy)) t

/-- After a copy length, the same for the offset row: its low field is 2 bits wide after length 2, else `WSIZE` bits (R110,
R181, R265). The jump table is that of `T_PKWARE` (log 2); that length and offset are two steps is the model's choice (logs 11
and 12). -/
def Obligations.StepRunsTheDecodedOffset : Prop :=
  ∀ (s : State) (i : Instr) (rest : List Bool),
    s.running .dec → ReaderOk s → s.dec.distj = builtDistj tPkware → s.dec.dstate = .copy → s.dec.offNext = true →
    decode tPkware (.offset (if s.dec.tLen = 2 then 2 else s.hdr.wsize.toNat)) s.restBits = .ok (i, rest) →
    ∃ t, step s = exec i t ∧ t.restBits = rest ∧ ReaderOk t ∧ SameButReader s t

/-- In `D_HEADER` a step takes the next stream byte and executes HDR0, then HDR1; where there is no byte the command fails with
HEADER_SHORT, whatever byte came before (R151, R262). That the two bytes are two steps is the model's choice (logs 11 and 12).
-/
def Obligations.StepRunsTheHeaderBytes : Prop :=
  ∀ s : State, s.running .dec → ReaderOk s → s.dec.dstate = .header →
    (∀ b rest, s.restBytes = b :: rest →
      ∃ t, step s = exec (if s.dec.hdrByte0 = none then .hdr0 b else .hdr1 b) t ∧ t.restBytes = rest ∧ ReaderOk t ∧
        SameButReader s t) ∧
    (s.restBytes = [] → ∃ t, SameButReader s t ∧ step s = .next (t.fail standard .dec .headerShort))

/-- Where the input ends inside a token or an offset, the command fails with STARVED, and of the rest of the state only the bit
reader has changed (R154, R263 to R265, R314). The jump tables are those of `T_PKWARE` (log 2). -/
def Obligations.TruncatedTokenStarves : Prop :=
  (∀ (s : State) e, s.running .dec → ReaderOk s → s.dec.lenj = builtLenj tPkware → s.dec.dstate = .token →
    decode tPkware .token s.restBits = .error e →
    ∃ t, SameButReader s t ∧ step s = .next (t.fail standard .dec .starved)) ∧
  (∀ (s : State) e, s.running .dec → ReaderOk s → s.dec.distj = builtDistj tPkware → legalWsize s.hdr.wsize = true →
    s.dec.dstate = .copy → s.dec.offNext = true →
    decode tPkware (.offset (lowWidth s.dec.tLen s.hdr.wsize)) s.restBits = .error e →
    ∃ t, SameButReader s t ∧ step s = .next (t.fail standard .dec .starved))

/-! ### The Bit Channel -/

/-- PEEK answers the next `k` stream bits, zero-filled past the end of the input, and consumes none; CONSUME removes them, and
raises STARVED exactly when the whole input holds fewer than `k` (R151 to R154, R350). -/
def Obligations.PeekLooksAndConsumeTakes : Prop :=
  ∀ (P : Config.Params) (k : Nat) (s : State), 1 ≤ k → k ≤ 8 → ReaderOk s →
    (∃ t, peek k s = .ok (natOfBits (s.restBits.take k)) t ∧ t.restBits = s.restBits ∧ ReaderOk t ∧ SameButReader s t) ∧
    (k ≤ s.restBits.length →
      ∃ t, consume P k s = .ok () t ∧ t.restBits = s.restBits.drop k ∧ ReaderOk t ∧ SameButReader s t) ∧
    (s.restBits.length < k → ∃ t, consume P k s = .stop (.next (t.fail P .dec .starved)) ∧ SameButReader s t)

/-- READ delivers the next `k` stream bits, first bit lowest, and moves the stream position by `k` (R71, R155, R31). -/
def Obligations.ReadDeliversTheNextBits : Prop :=
  ∀ (P : Config.Params) (k : Nat) (s : State), 1 ≤ k → k ≤ 8 → ReaderOk s → s.dec.nbits ≤ 8 * s.bytesTaken →
    k ≤ s.restBits.length →
    ∃ t, readBits P k s = .ok (natOfBits (s.restBits.take k)) t ∧ t.restBits = s.restBits.drop k ∧
      t.decPosition = s.decPosition + k ∧ ReaderOk t ∧ SameButReader s t

/-- WRITE_BITS appends the low `n` bits of `v`, bit 0 first, to the bits written so far, across byte boundaries and flushes of
`OUTB`, each of which pushes 2048 bytes; only a push that does not fit prevents it, and that sets `STOP` (R140 to R143, R71,
R75). The codeword tables are those of any `T`. -/
def Obligations.WriteBitsAppendsTheLowBits : Prop :=
  ∀ (T : Config.CodeTables) (n v : Nat) (s : State), 1 ≤ n → n ≤ 16 → WriterOk T s → s.hostOut.wf = true →
    s.tc.stop = false →
    ∃ t, writeBits n v s = .ok () t ∧ SameButWriter s t ∧ WriterOk T t ∧ t.hostOut.wf = true ∧
      (t.tc.stop = false → t.packedBits = s.packedBits ++ bitsOfNat n v) ∧
      (t.tc.outCur = s.tc.outCur ∧ t.xfers = s.xfers ∨
        t.tc.outCur = s.tc.outCur + 2048 ∧ t.xfers = .push 2048 :: s.xfers) ∧
      (t.tc.stop = true → t.hostOut = s.hostOut ∧ t.tc.outCur = s.tc.outCur ∧ s.tc.outLimit < s.tc.outCur + 2048)

/-- FINISH pads the last byte with zero bits and pushes all that is left in one push, none if nothing is left: the output is then
the bits written, packed, and the writer is empty; or the push does not fit and sets `STOP` (R144, R73, R75). `ACC` and `NACC`
are cleared even where the last push stops (R144). The codeword tables are those of any `T`. -/
def Obligations.FinishPadsAndPushesTheRest : Prop :=
  ∀ (T : Config.CodeTables) (s : State), WriterOk T s → s.hostOut.wf = true → s.tc.stop = false →
    let left := (packAll s.packedBits).length - s.tc.outCur
    ∃ t, finish s = .ok () t ∧ SameButWriter s t ∧ t.cmp.acc = 0 ∧ t.cmp.nacc = 0 ∧ t.cmp.outPos = 0 ∧
      (t.tc.stop = false → loadBytes t.hostOut 0 t.tc.outCur = packAll s.packedBits ∧ left ≤ 2048 ∧
        t.xfers = if left = 0 then s.xfers else .push left :: s.xfers) ∧
      (t.tc.stop = true → t.hostOut = s.hostOut ∧ t.tc.outCur = s.tc.outCur ∧ t.xfers = s.xfers ∧
        s.tc.outLimit < (packAll s.packedBits).length)

/-- Once `STOP` = 1, STORE_BYTE, WRITE_BITS and FINISH change nothing and push nothing; and in no state does the write side
raise an exception (R145). That FINISH leaves even `ACC` and `NACC` is R145 taken over the pseudocode of R144, the model's
reading (log 17). -/
def Obligations.StoppedWriteSideChangesNothing : Prop :=
  (∀ s : State, s.tc.stop = true →
    (∀ b, storeByte b s = .ok () s) ∧ (∀ n v, writeBits n v s = .ok () s) ∧ finish s = .ok () s) ∧
  (∀ (P : Config.Params) (s : State) (e : Engine) (c : Cause) (t : State),
    (∀ b, storeByte b s ≠ raise P e c t) ∧ (∀ n v, writeBits n v s ≠ raise P e c t) ∧ finish s ≠ raise P e c t)

/-! ### The Transfer Harness -/

/-- PULL moves the next input bytes, as many as are left up to `max`; no other cell of the memory is touched; it delivers 0
exactly when the input is used up, and `STOP` does not affect it (R291). -/
def Obligations.PullDeliversWhatIsLeft : Prop :=
  ∀ (m : Memory) (a max : Nat) (s : State), m.wf = true → 1 ≤ max →
    let n := min max (s.tc.inLen - s.tc.inCur)
    pullCount s max = n ∧
    (∀ x, (pull m a max s).1.read x = if a ≤ x ∧ x < a + n then s.hostIn.read (s.tc.inCur + (x - a)) else m.read x) ∧
    (pull m a max s).2 = { s with tc := { s.tc with inCur := s.tc.inCur + n }, xfers := .pull n :: s.xfers } ∧
    (n = 0 ↔ s.tc.inLen ≤ s.tc.inCur) ∧
    (∀ b, (pull m a max { s with tc := { s.tc with stop := b } }).1 = (pull m a max s).1 ∧
      pullCount { s with tc := { s.tc with stop := b } } max = n) ∧
    (s.tc.inLen = 5000 → s.tc.inCur = 4096 → max = 4096 →
      n = 904 ∧ pullCount (pull m a max s).2 max = 0)

/-- PUSH appends `n` bytes to the output or, if they do not fit, writes none of them and sets `STOP`; with `STOP` set it does
nothing (R292). -/
def Obligations.PushIsAllOrNothing : Prop :=
  ∀ (m : Memory) (size : Nat) (f : Fault) (a n : Nat) (s : State), s.hostOut.wf = true → 1 ≤ n → a + n ≤ size →
    (s.tc.stop = true → push m size f a n s = .ok () s) ∧
    (s.tc.stop = false → s.tc.outLimit < s.tc.outCur + n →
      push m size f a n s = .ok () { s with tc := { s.tc with stop := true } }) ∧
    (s.tc.stop = false → s.tc.outCur + n ≤ s.tc.outLimit →
      ∃ t, push m size f a n s = .ok () t ∧
        (∀ x, t.hostOut.read x =
          if s.tc.outCur ≤ x ∧ x < s.tc.outCur + n then m.read (a + (x - s.tc.outCur)) else s.hostOut.read x) ∧
        t = { s with
          tc := { s.tc with outCur := s.tc.outCur + n }, hostOut := t.hostOut, xfers := .push n :: s.xfers })

/-- Between commands, writing `CMD` = 0 does nothing, and neither does the step that follows; writing 3 is refused (R296). While
`BUSY` = 1 every host write is refused: of a command register, of `CMD` whatever the value, of a byte of `HOST_IN` or `HOST_OUT`;
and so is a command (R299). That waiting is a step that changes nothing is the model's choice (log 15), and so is what the
model refuses and under which name (log 19). -/
def Obligations.OtherCommandValuesAndWritesWhileBusy : Prop :=
  (∀ (P : Config.Params) (s : State), s.accepts = true →
    hostSetCmd P 0 s = .next s ∧ step s = .next s ∧ hostSetCmd P 3 s = .refused .reservedCommand) ∧
  (∀ s : State, s.busy = false → step { s with cr := { s.cr with cmd := 3 } } = .refused .reservedCommand) ∧
  (∀ (P : Config.Params) (s : State), s.busy = true →
    (∀ c, hostSetCmd P c s = .refused .hostWhileBusy) ∧ (∀ w, hostSetWsizeCfg w s = .refused .hostWhileBusy) ∧
    (∀ n, hostSetInLen P n s = .refused .hostWhileBusy) ∧ (∀ n, hostSetOutCap P n s = .refused .hostWhileBusy) ∧
    (∀ a b, hostPutInByte a b s = .refused .hostWhileBusy) ∧ (∀ a b, hostPutOutByte a b s = .refused .hostWhileBusy) ∧
    (∀ c input w n, hostIssue P c input w n s = .refused .hostWhileBusy) ∧
    exec .compress s = .refused .hostWhileBusy ∧ exec .decompress s = .refused .hostWhileBusy)

/-! ### The tokens -/

/-- LIT `b` stores the byte at the write cursor and moves the cursor on; `HIST` counts, saturating at 4096; nothing else changes
(R264, R276). -/
def Obligations.LitStoresAtTheCursor : Prop :=
  ∀ (b : Byte) (s : State), s.dec.win.wf = true → s.dec.wpos < 8710 →
    ∃ t, exec (.lit b) s = .next t ∧
      (∀ a, t.dec.win.read a = if a = s.dec.wpos then b else s.dec.win.read a) ∧
      t = { s with dec := { s.dec with
        win := t.dec.win, wpos := s.dec.wpos + 1, hist := min (s.dec.hist + 1) 4096, dstate := .flush } }

/-- A length row sets `T_LEN` to `LEN_BASE[i] + e + 2`, an offset row follows, and nothing else changes; END goes to `D_EOF`
and changes nothing else: no byte is produced and nothing after it is read (R106, R180, R265, R266). It covers LEN0 to LEN15
and END. The bases are those of `T_PKWARE` (log 2); that the offset is a step of its own is the model's choice (log 12),
and so is that a LEN row with an operand the opcode table has no encoding for, one of too many bits or the one of symbol 517,
follows the same formula (log 28). -/
def Obligations.LengthRowsAndEnd : Prop :=
  (∀ (i : Instr) (c e : Nat) (s : State), i.lenParts tPkware = some (c, e) → i ≠ .endOfStream →
    exec i s = .next { s with dec := { s.dec with tLen := lenBase tPkware c + e + 2, dstate := .copy, offNext := true } }) ∧
  (∀ s : State, exec .endOfStream s = .next { s with dec := { s.dec with dstate := .eof } })

/-- An offset row whose offset lies in the history copies `T_LEN` bytes to the write cursor, each equal to the byte `offset +
1` places before it as extended so far, so that an overlapping copy repeats; every other byte of `WIN` and the rest of the
state stay (R111, R265, R267, R268, R345). It covers DIST0 to DIST63. That the offset is a step of its own is the model's
choice (log 12). -/
def Obligations.OffsetRowCopies : Prop :=
  ∀ (i : Instr) (c : Nat) (low : Low) (s : State), i.distParts = some (c, low) → s.dec.win.wf = true →
    offsetOf c low + 1 ≤ s.dec.hist → offsetOf c low + 1 ≤ s.dec.wpos → s.dec.wpos + s.dec.tLen ≤ 8710 →
    ∃ t, exec i s = .next t ∧
      (∀ j, j < s.dec.tLen →
        t.dec.win.read (s.dec.wpos + j) = t.dec.win.read (s.dec.wpos + j - (offsetOf c low + 1))) ∧
      (∀ a, a < s.dec.wpos ∨ s.dec.wpos + s.dec.tLen ≤ a → t.dec.win.read a = s.dec.win.read a) ∧
      t = { s with dec := { s.dec with
        tOff := offsetOf c low, offNext := false, win := t.dec.win, wpos := s.dec.wpos + s.dec.tLen
        src := s.dec.wpos - (offsetOf c low + 1) + s.dec.tLen, hist := min (s.dec.hist + s.dec.tLen) 4096
        dstate := .flush } }

/-- An offset row that reaches before the first byte produced takes the exception DIST_BEFORE_START and writes nothing to `WIN`
(R267, R316). It covers DIST0 to DIST63. That the offset is a step of its own is the model's choice (log 12). -/
def Obligations.OffsetRowBeforeTheStartRaises : Prop :=
  ∀ (i : Instr) (c : Nat) (low : Low) (s : State), i.distParts = some (c, low) → s.dec.hist < offsetOf c low + 1 →
    ∃ t, exec i s = .next t ∧ t.dec.win = s.dec.win ∧ t.tc = s.tc ∧
      t = { s with dec := { s.dec with tOff := offsetOf c low, offNext := false } }.fail standard .dec .distBeforeStart

/-- The assembled offset is `(c << lw) | low`, below `64 << lw` for the 64 classes: at most 255 after length 2 and below `DSIZE`
otherwise (R110, R111, R181). -/
def Obligations.OffsetsStayBelowTheDictionarySize : Prop :=
  ∀ (i : Instr) (c : Nat) (low : Low), i.distParts = some (c, low) →
    offsetOf c low = (c <<< low.width) ||| low.val ∧ offsetOf c low < 64 * 2 ^ low.width ∧ offsetOf c low ≤ 4095

/-! ### The header -/

/-- HDR0 only takes its byte: both are fetched before either is checked, and which byte it was shows with HDR1 (R262; log 12). -/
def Obligations.HeaderByteZeroIsTaken : Prop :=
  ∀ (b : Byte) (s : State), exec (.hdr0 b) s = .next { s with dec := { s.dec with hdrByte0 := some b } }

/-- HDR1 after a zero byte 0 and with a window size of 4, 5 or 6 accepts the header: `LITMODE`, `WSIZE` and so `DSIZE` are set,
the jump tables built, the cursor at 4096, the history empty; nothing else changes (R34, R102, R262). The jump tables are those
of `T_PKWARE` (log 2); that byte 0 was kept from the step before is the model's choice (log 12). -/
def Obligations.LegalHeaderIsAccepted : Prop :=
  ∀ (w : Byte) (s : State), s.dec.hdrByte0 = some 0 → w = 4 ∨ w = 5 ∨ w = 6 →
    ∃ t, exec (.hdr1 w) s = .next t ∧ t.dsize = 64 <<< w.toNat ∧
      t = { s with
        hdr := { litmode := 0, wsize := w }
        dec := { s.dec with
          hdrByte0 := none, lenj := builtLenj tPkware, distj := builtDistj tPkware, wpos := 4096, hist := 0
          dstate := .token } }

/-- HDR1 fails with BAD_LITMODE if byte 0 was not 0, whatever byte 1 is; else with BAD_WSIZE if byte 1 is not 4, 5 or 6 (R101,
R102, R262, R316). That byte 0 was kept from the step before is the model's choice (log 12). -/
def Obligations.IllegalHeaderIsRejected : Prop :=
  ∀ (b w : Byte) (s : State), s.dec.hdrByte0 = some b →
    let t := { s with hdr := { litmode := b, wsize := w }, dec := { s.dec with hdrByte0 := none } }
    (b ≠ 0 → exec (.hdr1 w) s = .next (t.fail standard .dec .badLitmode)) ∧
    (b = 0 → ¬(w = 4 ∨ w = 5 ∨ w = 6) → exec (.hdr1 w) s = .next (t.fail standard .dec .badWsize))

/-! ### The commands -/

/-- COMPRESS with a legal window size: every register of CMP and the Transfer Context take their start values, the codeword
tables are built, `OUTB` holds the two header bytes, `C_STAGING` follows; no other byte of memory, no register of DEC, and no
host buffer changes (R232, R293, R341). The codeword tables are those of `T_PKWARE` (log 2); that memories keep their content
and the log of transfers starts anew is the model's choice (logs 7 and 13). -/
def Obligations.CompressStarts : Prop :=
  ∀ s : State, s.busy = false → s.cr.wsizeCfg = 4 ∨ s.cr.wsizeCfg = 5 ∨ s.cr.wsizeCfg = 6 → s.cmp.outb.wf = true →
    ∃ t, exec .compress s = .next t ∧
      (∀ a, t.cmp.outb.read a = if a = 0 then 0 else if a = 1 then s.cr.wsizeCfg else s.cmp.outb.read a) ∧
      t = { s with
        cr := { s.cr with cmd := 1, status := 0x01 }
        tc := { inCur := 0, inLen := s.cr.argInLen, outCur := 0, outLimit := s.cr.argOutCap, stop := false }
        hdr := { litmode := 0, wsize := s.cr.wsizeCfg }
        cmp := { s.cmp with
          cstate := .staging, cur := (64 <<< s.cr.wsizeCfg.toNat) + 516, nload := 0
          loadEnd := (64 <<< s.cr.wsizeCfg.toNat) + 516, scanEnd := 64 <<< s.cr.wsizeCfg.toNat, ended := false, round := 0
          mLen := 0, mOff := 0, nLen := 0, nOff := 0, nidx := 0, acc := 0, nacc := 0, outPos := 2
          cwv := builtCwv tPkware, cwb := builtCwb tPkware, outb := t.cmp.outb }
        xfers := [] }

/-- COMPRESS with any other window size fails at once with BAD_WSIZE_CFG: no pull, no push, no engine memory touched (R294). -/
def Obligations.CompressRejectsAnIllegalWindowSize : Prop :=
  ∀ s : State, s.busy = false → ¬(s.cr.wsizeCfg = 4 ∨ s.cr.wsizeCfg = 5 ∨ s.cr.wsizeCfg = 6) →
    ∃ t, exec .compress s = .next t ∧ statusDone t.cr.status = true ∧ statusSuccess t.cr.status = false ∧
      statusErr t.cr.status = 1 ∧ statusCause t.cr.status = 3 ∧ t.cr.cmd = 0 ∧
      t.tc.inCur = 0 ∧ t.tc.outCur = 0 ∧ t.xfers = [] ∧ t.dec = s.dec ∧ t.cmp = { s.cmp with cstate := .fail }

/-- DECOMPRESS: no operand is checked; every register of DEC and the Transfer Context take their start values and `D_HEADER`
follows; no memory changes and CMP is not touched (R295, R341). That memories keep their content and the log of transfers
starts anew is the model's choice (logs 7 and 13). -/
def Obligations.DecompressStarts : Prop :=
  ∀ s : State, s.busy = false →
    exec .decompress s = .next { s with
      cr := { s.cr with cmd := 2, status := 0x01 }
      tc := { inCur := 0, inLen := s.cr.argInLen, outCur := 0, outLimit := s.cr.argOutCap, stop := false }
      hdr := { litmode := 0, wsize := 0 }
      dec := { s.dec with
        dstate := .header, bitbuf := 0, nbits := 0, inPos := 0, inFill := 0, inEof := false, wpos := 4096, hist := 0
        tLen := 0, tOff := 0, src := 0, hdrByte0 := none, offNext := false }
      xfers := [] }

/-! ### The end of a command -/

/-- Taking an exception: `BUSY` is 0, `DONE` 1, `SUCCESS` 0, `ERR` and `CAUSE` are the numbers of the kind and the cause, `CMD`
is cleared, the engine is in its FAIL state; cells of `HOST_OUT` at `OUT_LIMIT` and above and everything else stay as they
were. `ARG_OUT_CAP`, of `ADDR_W` bits, and the cells below `OUT_LIMIT` are free values, of which nothing is said (R297, R310,
R311, R316, R317). The free values are logs 8 to 10. -/
def Obligations.TakingAnException : Prop :=
  ∀ (P : Config.Params) (e : Engine) (c : Cause) (s : State), s.hostOut.wf = true →
    let t := s.fail P e c
    t.cr.argOutCap < 2 ^ P.addrW ∧
    statusBusy t.cr.status = false ∧ statusDone t.cr.status = true ∧ statusSuccess t.cr.status = false ∧
    (statusErr t.cr.status).toNat = (match c with
      | .badLitmode => 1 | .badWsize => 1 | .badWsizeCfg => 1 | .push => 2
      | .headerShort => 3 | .starved => 3 | .distBeforeStart => 3) ∧
    (statusCause t.cr.status).toNat = (match c with
      | .badLitmode => 1 | .badWsize => 2 | .badWsizeCfg => 3 | .push => 4
      | .headerShort => 5 | .starved => 6 | .distBeforeStart => 7) ∧
    (∀ a, s.tc.outLimit ≤ a → t.hostOut.read a = s.hostOut.read a) ∧ t.hostOut.wf = true ∧
    t = { s with
      cr := { s.cr with cmd := 0, status := t.cr.status, argOutCap := t.cr.argOutCap }
      cmp := { s.cmp with cstate := if e = .cmp then .fail else s.cmp.cstate }
      dec := { s.dec with dstate := if e = .dec then .fail else s.dec.dstate }
      hostOut := t.hostOut
      freeCount := s.freeCount + 1 }

/-- COMPLETE in success: `STATUS` says done and successful with no error, `ARG_OUT_CAP` is `OUT_CUR`, `CMD` is cleared, the
engine is in its DONE state; nothing else changes (R33, R297). -/
def Obligations.SuccessfulCompletion : Prop :=
  ∀ (e : Engine) (s : State),
    let t := s.complete e
    t.cr.argOutCap = s.tc.outCur ∧
    statusBusy t.cr.status = false ∧ statusDone t.cr.status = true ∧ statusSuccess t.cr.status = true ∧
    statusErr t.cr.status = 0 ∧ statusCause t.cr.status = 0 ∧
    t = { s with
      cr := { s.cr with cmd := 0, status := t.cr.status, argOutCap := t.cr.argOutCap }
      cmp := { s.cmp with cstate := if e = .cmp then .done else s.cmp.cstate }
      dec := { s.dec with dstate := if e = .dec then .done else s.dec.dstate } }

/-! ### The flushes of DEC -/

/-- FLUSH_IF_FULL: below 8192 nothing but the state changes; from 8192 on the 4096 bytes from 4096 on are pushed and all bytes
from 4096 to the cursor slide down by 4096; a push that does not fit is OutputOverflow (R270, R346, R351). -/
def Obligations.FlushIfFull : Prop :=
  ∀ (P : Config.Params) (s : State), s.tc.stop = false → s.dec.win.wf = true → s.hostOut.wf = true →
    s.dec.wpos ≤ P.decWinSize →
    (s.dec.wpos < 8192 → flushIfFull P s = .ok () { s with dec := { s.dec with dstate := .token } }) ∧
    (8192 ≤ s.dec.wpos → s.tc.outCur + 4096 ≤ s.tc.outLimit →
      ∃ t, flushIfFull P s = .ok () t ∧
        (∀ a, t.hostOut.read a =
          if s.tc.outCur ≤ a ∧ a < s.tc.outCur + 4096 then s.dec.win.read (4096 + (a - s.tc.outCur)) else s.hostOut.read a) ∧
        (∀ a, t.dec.win.read a = if a < s.dec.wpos - 4096 then s.dec.win.read (a + 4096) else s.dec.win.read a) ∧
        t = { s with
          tc := { s.tc with outCur := s.tc.outCur + 4096 }
          dec := { s.dec with win := t.dec.win, wpos := s.dec.wpos - 4096, dstate := .token }
          hostOut := t.hostOut
          xfers := .push 4096 :: s.xfers }) ∧
    (8192 ≤ s.dec.wpos → s.tc.outLimit < s.tc.outCur + 4096 →
      flushIfFull P s = raise P .dec .push { s with tc := { s.tc with stop := true } })

/-- FINAL_FLUSH: with nothing unpushed the command succeeds without a push; else the bytes from 4096 to the cursor are pushed and
it succeeds, or they do not fit and it fails with OutputOverflow (R271, R273). -/
def Obligations.FinalFlush : Prop :=
  ∀ (P : Config.Params) (s : State), s.tc.stop = false → s.hostOut.wf = true → s.dec.wpos ≤ P.decWinSize →
    (s.dec.wpos ≤ 4096 → finalFlush P s = .ok () (s.complete .dec)) ∧
    (4096 < s.dec.wpos → s.tc.outCur + (s.dec.wpos - 4096) ≤ s.tc.outLimit →
      ∃ h, finalFlush P s = .ok () ({ s with
          tc := { s.tc with outCur := s.tc.outCur + (s.dec.wpos - 4096) }
          hostOut := h
          xfers := .push (s.dec.wpos - 4096) :: s.xfers }.complete .dec) ∧
        (∀ a, h.read a =
          if s.tc.outCur ≤ a ∧ a < s.tc.outCur + (s.dec.wpos - 4096) then s.dec.win.read (4096 + (a - s.tc.outCur))
          else s.hostOut.read a)) ∧
    (4096 < s.dec.wpos → s.tc.outLimit < s.tc.outCur + (s.dec.wpos - 4096) →
      finalFlush P s = raise P .dec .push { s with tc := { s.tc with stop := true } })

/-! ### The Match Finder -/

/-- HASH is `4 * b0 + 5 * b1`, in `0 .. 2295`, so that buckets 2296 to 2303 are empty after every INDEX_BUILD; different pairs
can share a bucket (R201, with its examples). -/
def Obligations.HashStaysInsideTheBuckets : Prop :=
  (∀ b0 b1 : Byte, hash b0 b1 = 4 * b0.toNat + 5 * b1.toNat ∧ hash b0 b1 ≤ 2295) ∧
  (∀ s t : State, s.cmp.idx.length = 8707 → indexBuild s = .ok () t → ∀ h, 2296 ≤ h → h < 2304 → t.bucket h = []) ∧
  hash 5 0 = 20 ∧ hash 0 4 = 20 ∧ hash 0 0 = 0 ∧ hash 255 255 = 2295 ∧ hash 0x41 0x49 = 625 ∧ hash 0x49 0x41 = 617

/-- After INDEX_BUILD bucket `h` is the slots `IDX[HTAB[h] .. BEND(h))`, `BEND(h)` being `HTAB[h + 1]`, or `NIDX` for the last
bucket; it holds exactly the indexed positions whose two bytes hash to `h`, in ascending order, oldest first; the indexed
positions are those of `[IDX_LO, LOAD_END - 1)`, `NIDX` of them; only `HTAB`, `IDX` and `NIDX` change (R202, R203). -/
def Obligations.IndexBuildSortsThePositions : Prop :=
  ∀ s : State, s.cmp.idx.length = 8707 → s.cmp.loadEnd ≤ s.workSize →
    s.cmp.loadEnd - 1 - max s.loValid (s.cmp.cur - s.dsize) ≤ 8707 →
    ∃ t, indexBuild s = .ok () t ∧
      t = { s with cmp := { s.cmp with htab := t.cmp.htab, idx := t.cmp.idx, nidx := t.cmp.nidx } } ∧
      t.cmp.htab.length = 2304 ∧ t.cmp.idx.length = 8707 ∧
      t.cmp.nidx = s.cmp.loadEnd - 1 - max s.loValid (s.cmp.cur - s.dsize) ∧
      ∀ h, h < 2304 →
        let first := t.cmp.htab.getD h 0
        let bend := if h < 2303 then t.cmp.htab.getD (h + 1) 0 else t.cmp.nidx
        first ≤ bend ∧ bend ≤ t.cmp.nidx ∧
        t.bucket h = (t.cmp.idx.drop first).take (bend - first) ∧
        t.bucket h = (List.range' (max s.loValid (s.cmp.cur - s.dsize)) t.cmp.nidx).filter
          fun q => hash (s.cmp.work.read q) (s.cmp.work.read (q + 1)) == h

/-- What CHOOSE decides reproduces the input: a literal is the byte at the cursor; a copy is 2 to 516 bytes, each equal to the
byte `offset + 1` places before it, inside the loaded data and the dictionary, with an offset below 256 if its length is 2
(R206, R208, R210). And which it decides on (R213), for any `LAZY_DEFER`: the literal without a match at the cursor; else, by
what FIND_MATCH finds one byte on, the literal if `LAZY_DEFER` says so and the copy of the match if not, both matches being left
in their registers. The predicate of R212, the spec's default (log 3): the next match is longer, or as long with an offset of
at most 128 against one above 128. -/
def Obligations.ChooseReproducesTheInput : Prop :=
  (∀ (P : Config.Params) (s t : State) (tok : Token) (n : Nat), choose P s = .ok (tok, n) t →
    (∀ b, tok = .lit b → b = s.cmp.work.read s.cmp.cur ∧ n = 1) ∧
    (∀ len off, tok = .copy len off → n = len ∧ 2 ≤ len ∧ len ≤ 516 ∧ s.cmp.cur + len ≤ s.cmp.loadEnd ∧
      off < s.dsize ∧ off + 1 ≤ s.cmp.cur ∧ s.loValid ≤ s.cmp.cur - (off + 1) ∧ (len = 2 → off < 256) ∧
      ∀ k, k < len → s.cmp.work.read (s.cmp.cur + k) = s.cmp.work.read (s.cmp.cur + k - (off + 1))) ∧
    t = { s with cmp := { s.cmp with
      mLen := t.cmp.mLen, mOff := t.cmp.mOff, nLen := t.cmp.nLen, nOff := t.cmp.nOff } }) ∧
  (∀ (P : Config.Params) (s : State) (m : Nat × Nat), s.cmp.cur < s.cmp.loadEnd → s.cmp.loadEnd ≤ s.workSize →
    findMatch s.cmp.cur s = .ok m →
    (m.1 < 2 → choose P s = .ok (.lit (s.cmp.work.read s.cmp.cur), 1)
      { s with cmp := { s.cmp with mLen := m.1, mOff := m.2 } }) ∧
    (2 ≤ m.1 → ∀ n, findMatch (s.cmp.cur + 1) s = .ok n →
      choose P s = .ok
        (if P.lazyDefer m.1 m.2 n.1 n.2 then (.lit (s.cmp.work.read s.cmp.cur), 1) else (.copy m.1 m.2, m.1))
        { s with cmp := { s.cmp with mLen := m.1, mOff := m.2, nLen := n.1, nOff := n.2 } })) ∧
  (∀ l0 o0 l1 o1 : Nat, standard.lazyDefer l0 o0 l1 o1 = true ↔ l0 < l1 ∨ (l1 = l0 ∧ o1 ≤ 128 ∧ 128 < o0))

/-- FIND_MATCH at or after the cursor examines every position of the dictionary, though it looks only into one bucket: its
result is the longest match, the nearest among equals, the oldest of 516 bytes, and none at length 2 beyond offset 255
(R205 to R210). -/
def Obligations.FindMatchIsExhaustive : Prop :=
  ∀ (s : State) (p : Nat), Inv standard s → s.running .cmp → CmpContent s → s.cmp.cstate = .emit → s.cmp.cur ≤ p →
    p < s.cmp.loadEnd →
    findMatch p s = .ok (
      if min 516 (s.cmp.loadEnd - p) < 2 then (0, 0)
      else lengthTwoRule (archPick (fun q => matchLen s.cmp.work q p (min 516 (s.cmp.loadEnd - p))) p
        (List.range' (max s.loValid (p - s.dsize)) (p - max s.loValid (p - s.dsize)))))

/-- FIND_MATCH of a scanned position or its lookahead is `FM` of the whole input: rounds, shifts and the index do not show in it
(R215, R236). -/
def Obligations.FindMatchIsThatOfTheWholeInput : Prop :=
  ∀ (s : State) (p : Nat), Inv standard s → s.running .cmp → CmpContent s → s.cmp.cstate = .emit →
    s.cmp.cur < s.cmp.scanEnd →
    p = s.cmp.cur ∨ p = s.cmp.cur + 1 → p < s.cmp.loadEnd →
    findMatch p s = .ok (archMatch s.dsize s.hostIn s.tc.inLen (s.tc.inCur + p - s.cmp.loadEnd))

/-! ### The Compressor Pipeline -/

/-- STAGE pulls up to 4096 bytes into the load region and sets `LOAD_END`, `SCAN_END` and, on a short pull, `ENDED`; every other
cell of `WORK` and everything else stay (R233, R76). -/
def Obligations.StageLoadsTheNextChunk : Prop :=
  ∀ s : State, s.cmp.work.wf = true →
    let n := min 4096 (s.tc.inLen - s.tc.inCur)
    let ended := decide (n < 4096) || s.cmp.ended
    ∃ t, stage s = .ok () t ∧
      (∀ a, t.cmp.work.read a =
        if s.base ≤ a ∧ a < s.base + n then s.hostIn.read (s.tc.inCur + (a - s.base)) else s.cmp.work.read a) ∧
      t = { s with
        tc := { s.tc with inCur := s.tc.inCur + n }
        cmp := { s.cmp with
          work := t.cmp.work, nload := n, ended := ended, loadEnd := s.dsize + 516 + n
          scanEnd := s.dsize + n + (if ended then 516 else 0), cstate := .analyze }
        xfers := .pull n :: s.xfers }

/-- SHIFT moves the valid bytes of `WORK` down by 4096, and the cursor with them; `ROUND` counts, saturating at 2; every other
cell and everything else stay (R237, R346). -/
def Obligations.ShiftMovesTheWindowDown : Prop :=
  ∀ s : State, s.cmp.work.wf = true → 4096 ≤ s.cmp.cur →
    ∃ t, shift s = .ok () t ∧
      (∀ a, t.cmp.work.read a =
        if max 4096 s.loValid - 4096 ≤ a ∧ a < s.base then s.cmp.work.read (a + 4096) else s.cmp.work.read a) ∧
      t.loValid = s.dsize + 516 - 4096 * min (s.cmp.round + 1) 2 ∧
      t = { s with cmp := { s.cmp with
        work := t.cmp.work, cur := s.cmp.cur - 4096, round := min (s.cmp.round + 1) 2, cstate := .staging } }

/-- For any well-formed code tables, emitting a token appends its bits, and emitting END appends END's, unless a push did not
fit; a copy with operands out of range has no encoding and is refused (R105, R175 to R177). -/
def Obligations.EmittingAppendsTheToken : Prop :=
  ∀ (T : Config.CodeTables) (tok : Token) (s : State), T.wf = true →
    (WriterOk T s → s.hostOut.wf = true → s.tc.stop = false → legalWsize s.hdr.wsize = true →
      (tok.encodable s.hdr.wsize = true → ∃ t, emitToken T tok s = .ok () t ∧ SameButWriter s t ∧ WriterOk T t ∧
        (t.tc.stop = false → t.packedBits = s.packedBits ++ tok.bits T s.hdr.wsize)) ∧
      (∃ t, emitEnd s = .ok () t ∧ SameButWriter s t ∧ WriterOk T t ∧
        (t.tc.stop = false → t.packedBits = s.packedBits ++ encode T .endOfStream))) ∧
    (tok.encodable s.hdr.wsize = false → emitToken T tok s = .refuse .copyOperands)

/-! ### Invariants -/

/-- Power-on reset: both engines idle, no command, `STATUS` 0; and the first step does nothing, because the machine waits for a
command (R340, R325). That waiting is a step that changes nothing is the model's choice (log 15). -/
def Obligations.PowerOnReset : Prop :=
  State.reset.cmp.cstate = .idle ∧ State.reset.dec.dstate = .idle ∧ State.reset.cr.cmd = 0 ∧ State.reset.cr.status = 0 ∧
  State.reset.busy = false ∧ step State.reset = .next State.reset

/-- The invariant holds after power-on reset (with the reset values of logs 5 and 6, which are the model's). -/
def Obligations.ResetHasTheInvariant : Prop := Inv standard State.reset

/-- Every step keeps the invariant: memories canonical and inside their sizes, registers inside their widths, and each engine
inside the bounds of its state (R11, R35 to R38, R79, R140, R150, R231, R261, R269). The codeword and jump tables are those of
`T_PKWARE` (log 2). -/
def Obligations.StepKeepsTheInvariant : Prop := ∀ s t : State, Inv standard s → step s = .next t → Inv standard t

/-- Under the invariant every step answers a next state, unless the host wrote the reserved command: no rule leaves a memory, no
ordinary input and no stream stops the machine (R79, R115, R296). -/
def Obligations.StepAnswersANextState : Prop :=
  ∀ s : State, Inv standard s → s.cr.cmd ≠ 3 → ∃ t, step s = .next t

/-- Every step of CMP keeps what `WORK` and the index hold: the input bytes of `[LO_VALID, LOAD_END)` and the positions a search
can use (R76, R82, R203, R204). -/
def Obligations.StepKeepsTheCompressorContent : Prop :=
  ∀ s t : State, Inv standard s → (s.running .cmp → CmpContent s) → step s = .next t → t.running .cmp → CmpContent t

/-- Every step of DEC keeps the reader on the stream: its unconsumed bits are the input from the stream position on; and the
stream position never falls (R31, R82, R150, R275). -/
def Obligations.StepKeepsTheReaderOnTheStream : Prop :=
  ∀ s t : State, Inv standard s → (s.running .dec → ReaderOnStream s) → step s = .next t → t.running .dec →
    ReaderOnStream t ∧ (s.running .dec → s.decPosition ≤ t.decPosition)

/-- Every step of DEC keeps the window: the `HIST` bytes below `WPOS` are the last bytes of the output (R269). -/
def Obligations.StepKeepsTheWindow : Prop :=
  ∀ s t : State, Inv standard s → (s.running .dec → WindowOk s) → step s = .next t → t.running .dec → WindowOk t

/-- No step changes `HOST_IN`, `WSIZE_CFG` or `ARG_IN_LEN`, and no step touches the engine that does not run (R33, R80, R85,
R341). -/
def Obligations.StepsTouchOnlyTheirOwn : Prop :=
  ∀ s t : State, step s = .next t →
    t.hostIn = s.hostIn ∧ t.cr.wsizeCfg = s.cr.wsizeCfg ∧ t.cr.argInLen = s.cr.argInLen ∧
    (s.running .cmp → t.dec = s.dec) ∧ (s.running .dec → t.cmp = s.cmp)

/-- `STOP` never outlives a step of a running command: where a push of the step did not fit, the step ends the command, in
failure, with OutputOverflow and cause PUSH; so with both engines (R32, R239, R270, R271, R349). -/
def Obligations.StopEndsTheCommand : Prop :=
  ∀ s t : State, Inv standard s → s.busy = true → step s = .next t → t.tc.stop = true →
    t.busy = false ∧ statusDone t.cr.status = true ∧ statusSuccess t.cr.status = false ∧
    statusErr t.cr.status = 2 ∧ statusCause t.cr.status = 4

/-! ### What a command computes -/

/-- A running COMPRESS is bound to one stream: it starts bound to the `STREAM` of its input, no step changes what it is bound to,
and when it completes it has either succeeded and pushed exactly that stream, or failed because the stream is longer than
`ARG_OUT_CAP` was (R240). Its transfers are pulls of 4096 bytes and a last short one, and pushes of 2048 bytes and, on success, a
last short one if bytes are left (R75, R233, R240). With the default tables and lazy choice: logs 2 and 3. -/
def Obligations.CompressComputesTheStream : Prop :=
  (∀ s t : State, Inv standard s → s.busy = false → s.cr.cmd = 1 → legalWsize s.cr.wsizeCfg = true → step s = .next t →
    t.running .cmp ∧ CmpContent t ∧ CmpTransfers t ∧
      t.cmpPromise standard = archStream standard s.cr.wsizeCfg s.hostIn s.cr.argInLen) ∧
  (∀ s t : State, Inv standard s → s.running .cmp → CmpContent s → step s = .next t →
    (t.busy = true → t.cmpPromise standard = s.cmpPromise standard) ∧
    (t.busy = false → statusSuccess t.cr.status = true →
      loadBytes t.hostOut 0 t.cr.argOutCap = s.cmpPromise standard ∧ (s.cmpPromise standard).length ≤ s.tc.outLimit) ∧
    (t.busy = false → statusSuccess t.cr.status = false → s.tc.outLimit < (s.cmpPromise standard).length)) ∧
  (∀ s t : State, Inv standard s → s.running .cmp → CmpTransfers s → step s = .next t →
    (statusSuccess t.cr.status = false → CmpTransfers t) ∧
    (statusSuccess t.cr.status = true →
      t.pulls = archCompressPulls t.tc.inLen ∧ t.pushes = archCompressPushes t.cr.argOutCap))

/-- A running DECOMPRESS is bound to one result: it starts bound to DECOMPRESS of its input as a function, no step changes what it
is bound to, and a completed command shows it, the output or the cause (R272, R273). Its transfers are pulls of 2048 bytes on
demand, a short one only at the end of the input, and pushes of 4096 bytes and, on success, a last short one if bytes are left
(R75, R273, R274). With the default tables: log 2. -/
def Obligations.DecompressComputesTheFunction : Prop :=
  (∀ s t : State, Inv standard s → s.busy = false → s.cr.cmd = 2 → step s = .next t →
    t.running .dec ∧ WindowOk t ∧ DecTransfers t ∧
      t.decPromise tPkware = some (archDecompress tPkware (loadBytes s.hostIn 0 s.cr.argInLen) s.cr.argOutCap)) ∧
  (∀ s t : State, Inv standard s → s.running .dec → WindowOk s → step s = .next t →
    t.decPromise tPkware = s.decPromise tPkware) ∧
  (∀ s t : State, Inv standard s → s.running .dec → DecTransfers s → step s = .next t →
    (statusSuccess t.cr.status = false → DecTransfers t) ∧
    (statusSuccess t.cr.status = true →
      t.pulls = archDecompressPulls t.tc.inCur t.dec.inEof ∧ t.pushes = archDecompressPushes t.cr.argOutCap))

/-- A command always completes (R298). -/
def Obligations.ACommandAlwaysCompletes : Prop :=
  ∀ s : State, Inv standard s → s.busy = true → ∃ n t, stepN n s = some t ∧ t.busy = false ∧ statusDone t.cr.status = true

/-- Executing the tokens of `TOKENS(x, N)` one after the other yields the input, for any bytes, any dictionary size and any
`LAZY_DEFER` (R212, R240, R241). -/
def Obligations.TokensReproduceTheInput : Prop :=
  ∀ (P : Config.Params) (dsize : Nat) (x : Memory) (n : Nat),
    (archTokens P dsize x n 0 n).foldl (fun y t => y.bind (archExec t)) (some []) = some (loadBytes x 0 n)

/-- Round trip, for any well-formed code tables and any `LAZY_DEFER`: DECOMPRESS of `STREAM(x, N, WSIZE)` is `x` if the output
buffer holds `N` bytes, and OutputOverflow otherwise (R212, R241, R273). -/
def Obligations.RoundTrip : Prop :=
  ∀ (P : Config.Params) (wsize : Byte) (x : Memory) (n cap : Nat), P.wf = true → legalWsize wsize = true →
    archDecompress P.tables (archStream P wsize x n) cap =
      if n ≤ cap then .success (loadBytes x 0 n) else .failure .push

/-- The stream is at most `2 + ceil((9 * N + 16) / 8)` bytes, whatever `LAZY_DEFER`: no copy costs more than 9 bits a byte (R242,
with the default tables: log 2). -/
def Obligations.StreamSizeBound : Prop :=
  ∀ (P : Config.Params) (wsize : Byte) (x : Memory) (n : Nat), P.tables = tPkware → legalWsize wsize = true →
    (archStream P wsize x n).length ≤ 2 + (9 * n + 16 + 7) / 8

/-! ### The parameters -/

/-- `exec` and `step` are the machine with the parameter values R10 takes (logs 2, 3 and 4); COMPRESS and DECOMPRESS with
parameters that do not meet R172 are refused (R10, R172). -/
def Obligations.StepIsTheStandardInstance : Prop :=
  (∀ (i : Instr) (s : State), exec i s = execWith standard i s) ∧ (∀ s : State, step s = stepWith standard s) ∧
  standard.tables = tPkware ∧ standard.addrW = 32 ∧ standard.decWinSize = 8710 ∧
  (∀ (P : Config.Params) (s : State), s.busy = false → P.wf = false →
    execWith P .compress s = .refused .illFormedParameters ∧ execWith P .decompress s = .refused .illFormedParameters)

/-! ### The host port -/

/-- The host port. Between commands an operand is written as given, or refused where it has more than `ADDR_W` bits (R33, U19);
the write of `CMD` = 1 or 2 is the command's execution, at once, with the parameters' values of R10: where the command starts,
`STATUS` is then 01, `BUSY` alone (R293); and running a command is writing the input and the operands, `CMD` last (R293).
`STATUS`, `WSIZE_CFG` and `ARG_IN_LEN` are read only while `BUSY` = 0; `ARG_OUT_CAP` and `HOST_OUT` only once `DONE` = 1 as well
(R33, R81, R320). The model's choices: that a write is accepted only where `CMD` is 0 too (log 14); that a read the host may not
make answers nothing, and that `ARG_OUT_CAP`, which R33 gives as read/write, is read only as a result (log 19). -/
def Obligations.HostPort : Prop :=
  (∀ (P : Config.Params) (s : State) (n : Nat), s.accepts = true →
    hostSetInLen P n s = (if n < 2 ^ P.addrW then .next { s with cr := { s.cr with argInLen := n } }
      else .refused .valueTooWide) ∧
    hostSetOutCap P n s = (if n < 2 ^ P.addrW then .next { s with cr := { s.cr with argOutCap := n } }
      else .refused .valueTooWide)) ∧
  (∀ s : State, s.accepts = true →
    (∀ w, hostSetWsizeCfg w s = .next { s with cr := { s.cr with wsizeCfg := w } }) ∧
    (∀ a b, hostPutInByte a b s = .next { s with hostIn := s.hostIn.write a b }) ∧
    (∀ a b, hostPutOutByte a b s = .next { s with hostOut := s.hostOut.write a b }) ∧
    hostSetCmd standard 1 s = exec .compress s ∧ hostSetCmd standard 2 s = exec .decompress s ∧
    (legalWsize s.cr.wsizeCfg = true → ∃ t, hostSetCmd standard 1 s = .next t ∧ t.cr.status = 0x01 ∧ t.cr.cmd = 1) ∧
    (∃ t, hostSetCmd standard 2 s = .next t ∧ t.cr.status = 0x01 ∧ t.cr.cmd = 2)) ∧
  (∀ (P : Config.Params) (c : BitVec 2) (input : List Byte) (w : Byte) (n : Nat) (s : State), s.accepts = true →
    hostIssue P c input w n s =
      (if 2 ^ P.addrW ≤ input.length ∨ 2 ^ P.addrW ≤ n then .refused .valueTooWide
      else hostSetCmd P c { s with
        cr := { s.cr with wsizeCfg := w, argInLen := input.length, argOutCap := n }
        hostIn := storeBytes s.hostIn 0 input })) ∧
  (∀ (s : State) (a : Nat), s.busy = true →
    hostStatus s = none ∧ hostWsizeCfg s = none ∧ hostInLen s = none ∧ hostOutCap s = none ∧ hostOutByte a s = none) ∧
  (∀ (s : State) (a : Nat), s.busy = false →
    hostStatus s = some s.cr.status ∧ hostWsizeCfg s = some s.cr.wsizeCfg ∧ hostInLen s = some s.cr.argInLen ∧
    hostOutCap s = (if statusDone s.cr.status then some s.cr.argOutCap else none) ∧
    hostOutByte a s = (if statusDone s.cr.status then some (s.hostOut.read a) else none))
end

