-- ==== Sys2Proof/Laws/Codec.lean ====
section
/-! SUPPORT. The laws of bit strings: lengths, numbers to bits and back, taking a field, bytes as bits, and the two parts of a
length or offset row. -/

namespace Sys2Proof

theorem length_bitsOfNat (n : Nat) : ∀ v, (bitsOfNat n v).length = n := by
  induction n with
  | zero => intro v; rfl
  | succ n ih => intro v; simp [bitsOfNat, ih]

/-- A number's low bits, read back. -/
theorem natOfBits_bitsOfNat (n : Nat) : ∀ v, natOfBits (bitsOfNat n v) = v % 2 ^ n := by
  induction n with
  | zero => intro v; simp [bitsOfNat, natOfBits, Nat.mod_one]
  | succ n ih =>
    intro v
    have h : ((v % 2 == 1).toNat) = v % 2 := by rcases Nat.mod_two_eq_zero_or_one v with h | h <;> simp [h]
    rw [bitsOfNat, natOfBits, ih, h, pow_succ', Nat.mod_mul]

theorem natOfBits_lt (l : List Bool) : natOfBits l < 2 ^ l.length := by
  induction l with
  | nil => simp [natOfBits]
  | cons b l ih =>
    have h : b.toNat ≤ 1 := by cases b <;> simp
    rw [natOfBits, List.length_cons, pow_succ']
    omega

/-- A bit string's number, written out again. -/
theorem bitsOfNat_natOfBits (l : List Bool) : bitsOfNat l.length (natOfBits l) = l := by
  induction l with
  | nil => rfl
  | cons b l ih =>
    have h1 : (b.toNat + 2 * natOfBits l) / 2 = natOfBits l := by cases b <;> simp; omega
    have h2 : ((b.toNat + 2 * natOfBits l) % 2 == 1) = b := by cases b <;> simp
    rw [List.length_cons, natOfBits, bitsOfNat, h1, h2, ih]

/-- Taking a field of the width just written gives its number and the rest. -/
theorem takeBits_append (n v : Nat) (rest : List Bool) :
    takeBits n (bitsOfNat n v ++ rest) = some (v % 2 ^ n, rest) := by
  unfold takeBits
  have h := length_bitsOfNat n v
  rw [if_neg (by rw [List.length_append, h]; omega)]
  congr 2
  · rw [List.take_append_of_le_length (by rw [h]), List.take_of_length_le (by rw [h]), natOfBits_bitsOfNat]
  · rw [List.drop_append_of_le_length (by rw [h]), List.drop_of_length_le (by rw [h]), List.nil_append]

theorem length_bitsOfBytes (l : List Byte) : (bitsOfBytes l).length = 8 * l.length := by
  induction l with
  | nil => rfl
  | cons b l ih => rw [bitsOfBytes, List.length_append, length_bitsOfNat, ih, List.length_cons]; omega

theorem bitsOfBytes_append (l l' : List Byte) : bitsOfBytes (l ++ l') = bitsOfBytes l ++ bitsOfBytes l' := by
  induction l with
  | nil => rfl
  | cons b l ih => rw [List.cons_append, bitsOfBytes, ih, bitsOfBytes, List.append_assoc]

theorem Low.val_lt (l : Low) : l.val < 2 ^ l.width := by
  cases l <;> simp only [Low.val, Low.width] <;> omega

/-- The low field of a given width and value, rebuilt from both. -/
theorem lowOf_val (l : Low) : lowOf l.width l.val = some l := by
  cases l <;> simp [Low.val, Low.width, lowOf]

/-- The encoding of a `LEN` row or of END is that of its class and extra value. -/
theorem encode_of_lenParts {T : Config.CodeTables} {i : Instr} {c e : Nat} (h : i.lenParts T = some (c, e)) :
    encode T i = encodeLength T c e := by
  cases i <;> simp only [Instr.lenParts, reduceCtorEq, Option.some.injEq, Prod.mk.injEq] at h <;>
    (obtain ⟨rfl, rfl⟩ := h; rfl)

/-- The encoding of a `DIST` row is that of its class and low field. -/
theorem encode_of_distParts {T : Config.CodeTables} {i : Instr} {c : Nat} {low : Low} (h : i.distParts = some (c, low)) :
    encode T i = encodeOffset T c low := by
  cases i <;> simp only [Instr.distParts, reduceCtorEq, Option.some.injEq, Prod.mk.injEq] at h <;>
    (obtain ⟨rfl, rfl⟩ := h; rfl)

end Sys2Proof
end

