-- ==== Sys2Proof/Laws/Memory.lean ====
section
/-! SUPPORT. The laws of the byte memories: what a write leaves at every address, that every memory operation keeps the
canonical form and the size, that equal reads mean equal memories, and what the byte loops do. -/

namespace Sys2Proof.Machine

/-! ### The canonical form -/

theorem Memory.wfFrom_nil (lo : Nat) : Memory.wfFrom lo [] = true := rfl

theorem Memory.wfFrom_cons (lo x : Nat) (c : Byte) (m : Memory) :
    Memory.wfFrom lo ((x, c) :: m) = true ↔ lo ≤ x ∧ c ≠ 0 ∧ Memory.wfFrom (x + 1) m = true := by
  simp [Memory.wfFrom, and_assoc]

theorem Memory.wfFrom_mono {lo lo' : Nat} {m : Memory} (h : lo' ≤ lo) (w : Memory.wfFrom lo m = true) :
    Memory.wfFrom lo' m = true := by
  cases m with
  | nil => rfl
  | cons p m => rw [Memory.wfFrom_cons] at *; exact ⟨h.trans w.1, w.2⟩

/-- Nothing is listed below the bound of a canonical memory. -/
theorem Memory.read_of_lt {lo a : Nat} {m : Memory} (w : Memory.wfFrom lo m = true) (h : a < lo) : m.read a = 0 := by
  cases m with
  | nil => rfl
  | cons p m =>
    obtain ⟨x, c⟩ := p
    rw [Memory.wfFrom_cons] at w
    have := w.1
    simp only [Memory.read]
    rw [if_neg (by omega), if_pos (by omega)]

theorem Memory.wfFrom_write {lo a : Nat} {b : Byte} {m : Memory} (w : Memory.wfFrom lo m = true) (h : lo ≤ a) :
    Memory.wfFrom lo (m.write a b) = true := by
  induction m generalizing lo with
  | nil =>
    simp only [Memory.write]
    split
    · rfl
    · simp_all [Memory.wfFrom]
  | cons p m ih =>
    obtain ⟨x, c⟩ := p
    rw [Memory.wfFrom_cons] at w
    obtain ⟨w1, w2, w3⟩ := w
    simp only [Memory.write]
    split_ifs with h1 h2 h3 h4
    · rw [Memory.wfFrom_cons]; exact ⟨w1, w2, w3⟩
    · rw [Memory.wfFrom_cons, Memory.wfFrom_cons]; exact ⟨h, h2, h1, w2, w3⟩
    · exact Memory.wfFrom_mono (by omega) w3
    · rw [Memory.wfFrom_cons]; subst h3; exact ⟨w1, h4, w3⟩
    · rw [Memory.wfFrom_cons]; exact ⟨w1, w2, ih w3 (by omega)⟩

/-- A write keeps the canonical form. -/
theorem Memory.wf_write {m : Memory} (w : m.wf = true) (a : Nat) (b : Byte) : (m.write a b).wf = true :=
  Memory.wfFrom_write w (Nat.zero_le a)

/-! ### Reads after writes -/

theorem Memory.read_write_from {lo a : Nat} {m : Memory} (w : Memory.wfFrom lo m = true) (b : Byte) (a' : Nat) :
    (m.write a b).read a' = if a' = a then b else m.read a' := by
  induction m generalizing lo with
  | nil =>
    simp only [Memory.write]
    split_ifs with hb ha ha
    · rw [hb]; rfl
    · rfl
    · simp only [Memory.read]; rw [if_pos ha]
    · simp only [Memory.read]; rw [if_neg ha, ite_self]
  | cons p m ih =>
    obtain ⟨x, c⟩ := p
    rw [Memory.wfFrom_cons] at w
    obtain ⟨w1, w2, w3⟩ := w
    simp only [Memory.write]
    rcases Nat.lt_trichotomy a x with h | h | h
    · rw [if_pos h]
      by_cases ha : a' = a
      · rw [if_pos ha]
        split_ifs with hb
        · simp only [Memory.read]; rw [if_neg (by omega), if_pos (by omega), hb]
        · simp only [Memory.read]; rw [if_pos ha]
      · rw [if_neg ha]
        split_ifs with hb
        · rfl
        · rw [Memory.read, if_neg ha]
          split_ifs with h2
          · simp only [Memory.read]; rw [if_neg (by omega), if_pos (by omega)]
          · rfl
    · subst h
      rw [if_neg (by omega), if_pos rfl]
      by_cases ha : a' = a
      · rw [if_pos ha]
        split_ifs with hb
        · rw [Memory.read_of_lt w3 (by omega), hb]
        · simp only [Memory.read]; rw [if_pos ha]
      · rw [if_neg ha]
        split_ifs with hb
        · simp only [Memory.read]
          rw [if_neg ha]
          split_ifs with h2
          · exact Memory.read_of_lt w3 (by omega)
          · rfl
        · simp only [Memory.read]; rw [if_neg ha, if_neg ha]
    · rw [if_neg (by omega), if_neg (by omega)]
      simp only [Memory.read]
      rw [ih w3]
      split_ifs <;> first | rfl | omega

/-- What a byte reads as after a write: the byte written there, every other address as before. -/
theorem Memory.read_write {m : Memory} (w : m.wf = true) (a : Nat) (b : Byte) (a' : Nat) :
    (m.write a b).read a' = if a' = a then b else m.read a' := Memory.read_write_from w b a'

theorem Memory.ext_from {lo : Nat} {m m' : Memory} (w : Memory.wfFrom lo m = true) (w' : Memory.wfFrom lo m' = true)
    (h : ∀ a, m.read a = m'.read a) : m = m' := by
  induction m generalizing lo m' with
  | nil =>
    cases m' with
    | nil => rfl
    | cons q m' =>
      obtain ⟨y, d⟩ := q
      rw [Memory.wfFrom_cons] at w'
      have := h y
      simp [Memory.read] at this
      exact absurd this.symm w'.2.1
  | cons p m ih =>
    obtain ⟨x, c⟩ := p
    rw [Memory.wfFrom_cons] at w
    cases m' with
    | nil =>
      have := h x
      simp [Memory.read] at this
      exact absurd this w.2.1
    | cons q m' =>
      obtain ⟨y, d⟩ := q
      rw [Memory.wfFrom_cons] at w'
      have hx := h x
      have hy := h y
      simp only [Memory.read, if_true] at hx hy
      rcases Nat.lt_trichotomy x y with hxy | hxy | hxy
      · rw [if_neg (by omega), if_pos hxy] at hx; exact absurd hx w.2.1
      · subst hxy
        rw [if_pos rfl] at hx
        rw [hx, ih w.2.2 w'.2.2 ?_]
        intro a
        by_cases ha : a ≤ x
        · rw [Memory.read_of_lt w.2.2 (by omega), Memory.read_of_lt w'.2.2 (by omega)]
        · have := h a
          simp only [Memory.read] at this
          rwa [if_neg (by omega), if_neg (by omega), if_neg (by omega), if_neg (by omega)] at this
      · rw [if_neg (by omega), if_pos hxy] at hy; exact absurd hy.symm w'.2.1

/-- Canonical memories that read the same everywhere are equal. -/
theorem Memory.ext_read {m m' : Memory} (w : m.wf = true) (w' : m'.wf = true) (h : ∀ a, m.read a = m'.read a) : m = m' :=
  Memory.ext_from w w' h

/-! ### Sizes -/

theorem Memory.below_cons (n x : Nat) (c : Byte) (m : Memory) :
    Memory.below n ((x, c) :: m) = true ↔ x < n ∧ Memory.below n m = true := by
  simp only [Memory.below, List.all_cons, Bool.and_eq_true, decide_eq_true_eq]

/-- A write inside the size keeps the size. -/
theorem Memory.below_write {n a : Nat} {m : Memory} (b : Byte) (h : m.below n = true) (ha : a < n) :
    (m.write a b).below n = true := by
  induction m with
  | nil =>
    simp only [Memory.write]
    split
    · rfl
    · rw [Memory.below_cons]; exact ⟨ha, rfl⟩
  | cons p m ih =>
    obtain ⟨x, c⟩ := p
    rw [Memory.below_cons] at h
    simp only [Memory.write]
    split_ifs <;> (try simp only [Memory.below_cons]) <;> first | exact h | exact ⟨ha, h⟩ | exact h.2 | exact ⟨ha, h.2⟩ | exact ⟨h.1, ih h.2⟩

/-! ### The byte loops -/

/-- The byte loop between memories: the cells written hold the source's bytes, the others are as before. -/
theorem copyCells_spec (src : Memory) (n : Nat) : ∀ (sa : Nat) (dst : Memory) (da : Nat), dst.wf = true →
    (copyCells src sa dst da n).wf = true ∧
      ∀ a, (copyCells src sa dst da n).read a =
        if da ≤ a ∧ a < da + n then src.read (sa + (a - da)) else dst.read a := by
  induction n with
  | zero => intro sa dst da w; exact ⟨w, fun a => by simp only [copyCells]; rw [if_neg (by omega)]⟩
  | succ n ih =>
    intro sa dst da w
    have w' := Memory.wf_write w da (src.read sa)
    obtain ⟨h1, h2⟩ := ih (sa + 1) _ (da + 1) w'
    refine ⟨h1, fun a => ?_⟩
    rw [copyCells, h2 a, Memory.read_write w]
    split_ifs <;> first | rfl | omega | (congr 1; omega)

theorem copyCells_below {k : Nat} (src : Memory) (n : Nat) : ∀ (sa : Nat) (dst : Memory) (da : Nat),
    dst.below k = true → da + n ≤ k → (copyCells src sa dst da n).below k = true := by
  induction n with
  | zero => intro sa dst da h _; exact h
  | succ n ih => intro sa dst da h hk; exact ih _ _ _ (Memory.below_write _ h (by omega)) (by omega)

/-- The byte loop inside one memory keeps the canonical form and leaves every address outside its destination alone. -/
theorem moveBytes_frame (n : Nat) : ∀ (m : Memory) (src dst : Nat), m.wf = true →
    (moveBytes m src dst n).wf = true ∧
      ∀ a, a < dst ∨ dst + n ≤ a → (moveBytes m src dst n).read a = m.read a := by
  induction n with
  | zero => intro m src dst w; exact ⟨w, fun _ _ => rfl⟩
  | succ n ih =>
    intro m src dst w
    obtain ⟨h1, h2⟩ := ih (m.write dst (m.read src)) (src + 1) (dst + 1) (Memory.wf_write w _ _)
    refine ⟨h1, fun a ha => ?_⟩
    rw [moveBytes, h2 a (by omega), Memory.read_write w, if_neg (by omega)]

theorem moveBytes_below {k : Nat} (n : Nat) : ∀ (m : Memory) (src dst : Nat),
    m.below k = true → dst + n ≤ k → (moveBytes m src dst n).below k = true := by
  induction n with
  | zero => intro m src dst h _; exact h
  | succ n ih => intro m src dst h hk; exact ih _ _ _ (Memory.below_write _ h (by omega)) (by omega)

/-- Bytes stored from an address on read back, the others are as before. -/
theorem storeBytes_spec (bs : List Byte) : ∀ (m : Memory) (a : Nat), m.wf = true →
    (storeBytes m a bs).wf = true ∧
      ∀ x, (storeBytes m a bs).read x = if a ≤ x ∧ x < a + bs.length then bs.getD (x - a) 0 else m.read x := by
  induction bs with
  | nil => intro m a w; exact ⟨w, fun x => by simp only [storeBytes, List.length_nil]; rw [if_neg (by omega)]⟩
  | cons b bs ih =>
    intro m a w
    obtain ⟨h1, h2⟩ := ih (m.write a b) (a + 1) (Memory.wf_write w a b)
    refine ⟨h1, fun x => ?_⟩
    rw [storeBytes, h2 x, Memory.read_write w]
    simp only [List.length_cons]
    by_cases hx : x = a
    · subst hx; rw [if_neg (by omega), if_pos rfl, if_pos (by omega)]; simp
    · rw [if_neg hx]
      by_cases hr : a + 1 ≤ x ∧ x < a + 1 + bs.length
      · rw [if_pos hr, if_pos (by omega)]
        obtain ⟨k, hk⟩ : ∃ k, x - a = k + 1 := ⟨x - a - 1, by omega⟩
        rw [hk, show x - (a + 1) = k by omega]; rfl
      · rw [if_neg hr, if_neg (by omega)]

/-! ### The overlay of free values -/

theorem Memory.wfFrom_filter {n : Nat} {m : Memory} : ∀ {lo : Nat}, Memory.wfFrom lo m = true →
    Memory.wfFrom (max lo n) (m.filter fun c => decide (n ≤ c.1)) = true := by
  induction m with
  | nil => intro lo _; rfl
  | cons p m ih =>
    obtain ⟨x, c⟩ := p
    intro lo w
    rw [Memory.wfFrom_cons] at w
    simp only [List.filter_cons]
    split_ifs with h
    · rw [Memory.wfFrom_cons]
      have hn : n ≤ x := by simpa using h
      refine ⟨by omega, w.2.1, Memory.wfFrom_mono (by omega) (ih w.2.2)⟩
    · have hn : ¬ n ≤ x := by simpa using h
      exact Memory.wfFrom_mono (by omega) (ih w.2.2)

theorem Memory.read_filter {n a : Nat} {m : Memory} (h : n ≤ a) : ∀ {lo : Nat}, Memory.wfFrom lo m = true →
    Memory.read (m.filter fun c => decide (n ≤ c.1)) a = m.read a := by
  induction m with
  | nil => intro lo _; rfl
  | cons p m ih =>
    obtain ⟨x, c⟩ := p
    intro lo w
    rw [Memory.wfFrom_cons] at w
    simp only [List.filter_cons]
    split_ifs with hx
    · simp only [Memory.read]; rw [ih w.2.2]
    · have hn : ¬ n ≤ x := by simpa using hx
      rw [ih w.2.2]; simp only [Memory.read]; rw [if_neg (by omega), if_neg (by omega)]

theorem fillFrom_spec (f : Nat → Byte) (tail : Memory) (n : Nat) : ∀ a, Memory.wfFrom (a + n) tail = true →
    Memory.wfFrom a (fillFrom f tail a n) = true ∧
      ∀ x, (fillFrom f tail a n).read x =
        if a ≤ x ∧ x < a + n then f x else if a + n ≤ x then tail.read x else 0 := by
  induction n with
  | zero =>
    intro a w
    refine ⟨by simpa [fillFrom] using w, fun x => ?_⟩
    simp only [fillFrom]
    rw [if_neg (by omega)]
    split_ifs with h
    · rfl
    · exact Memory.read_of_lt w (by omega)
  | succ n ih =>
    intro a w
    obtain ⟨h1, h2⟩ := ih (a + 1) (by rwa [show a + 1 + n = a + (n + 1) by omega])
    simp only [fillFrom]
    split_ifs with hf
    · refine ⟨Memory.wfFrom_mono (by omega) h1, fun x => ?_⟩
      rw [h2 x]
      by_cases hx : x = a
      · subst hx; rw [if_neg (by omega), if_neg (by omega), if_pos (by omega), hf]
      · split_ifs <;> first | rfl | omega
    · refine ⟨by rw [Memory.wfFrom_cons]; exact ⟨le_refl a, hf, h1⟩, fun x => ?_⟩
      simp only [Memory.read]
      rw [h2 x]
      by_cases hx : x = a
      · subst hx; rw [if_pos rfl, if_pos (by omega)]
      · rw [if_neg hx]; split_ifs <;> first | rfl | omega

/-- The overlay keeps the canonical form; below `n` it reads as `f`, from `n` on as before. -/
theorem overlay_spec (f : Nat → Byte) (n : Nat) {m : Memory} (w : m.wf = true) :
    (overlay f n m).wf = true ∧ ∀ a, (overlay f n m).read a = if a < n then f a else m.read a := by
  have h := fillFrom_spec f (m.filter fun c => decide (n ≤ c.1)) n 0
    (Memory.wfFrom_mono (by omega) (Memory.wfFrom_filter (n := n) w))
  refine ⟨h.1, fun a => ?_⟩
  rw [overlay, h.2 a]
  split_ifs with h1 h2 h3 <;> first | rfl | omega | skip
  all_goals exact Memory.read_filter (by omega) w

end Sys2Proof.Machine
end

