-- ==== Sys2Proof/Laws/State.lean ====
section
/-! SUPPORT. The small lemmas of the named state updates: what each field holds after each update, true by `rfl`, so that no
later proof unfolds a record update. -/

namespace Sys2Proof.Machine

/-! ### setDstate -/

@[simp] theorem setDstate_cr (d : DState) (s : State) : (s.setDstate d).cr = s.cr := rfl
@[simp] theorem setDstate_tc (d : DState) (s : State) : (s.setDstate d).tc = s.tc := rfl
@[simp] theorem setDstate_hdr (d : DState) (s : State) : (s.setDstate d).hdr = s.hdr := rfl
@[simp] theorem setDstate_cmp (d : DState) (s : State) : (s.setDstate d).cmp = s.cmp := rfl
@[simp] theorem setDstate_dec_dstate (d : DState) (s : State) : (s.setDstate d).dec.dstate = d := rfl
@[simp] theorem setDstate_dec_bitbuf (d : DState) (s : State) : (s.setDstate d).dec.bitbuf = s.dec.bitbuf := rfl
@[simp] theorem setDstate_dec_nbits (d : DState) (s : State) : (s.setDstate d).dec.nbits = s.dec.nbits := rfl
@[simp] theorem setDstate_dec_inPos (d : DState) (s : State) : (s.setDstate d).dec.inPos = s.dec.inPos := rfl
@[simp] theorem setDstate_dec_inFill (d : DState) (s : State) : (s.setDstate d).dec.inFill = s.dec.inFill := rfl
@[simp] theorem setDstate_dec_inEof (d : DState) (s : State) : (s.setDstate d).dec.inEof = s.dec.inEof := rfl
@[simp] theorem setDstate_dec_wpos (d : DState) (s : State) : (s.setDstate d).dec.wpos = s.dec.wpos := rfl
@[simp] theorem setDstate_dec_hist (d : DState) (s : State) : (s.setDstate d).dec.hist = s.dec.hist := rfl
@[simp] theorem setDstate_dec_tLen (d : DState) (s : State) : (s.setDstate d).dec.tLen = s.dec.tLen := rfl
@[simp] theorem setDstate_dec_tOff (d : DState) (s : State) : (s.setDstate d).dec.tOff = s.dec.tOff := rfl
@[simp] theorem setDstate_dec_src (d : DState) (s : State) : (s.setDstate d).dec.src = s.dec.src := rfl
@[simp] theorem setDstate_dec_lenj (d : DState) (s : State) : (s.setDstate d).dec.lenj = s.dec.lenj := rfl
@[simp] theorem setDstate_dec_distj (d : DState) (s : State) : (s.setDstate d).dec.distj = s.dec.distj := rfl
@[simp] theorem setDstate_dec_inb (d : DState) (s : State) : (s.setDstate d).dec.inb = s.dec.inb := rfl
@[simp] theorem setDstate_dec_win (d : DState) (s : State) : (s.setDstate d).dec.win = s.dec.win := rfl
@[simp] theorem setDstate_dec_hdrByte0 (d : DState) (s : State) : (s.setDstate d).dec.hdrByte0 = s.dec.hdrByte0 := rfl
@[simp] theorem setDstate_dec_offNext (d : DState) (s : State) : (s.setDstate d).dec.offNext = s.dec.offNext := rfl
@[simp] theorem setDstate_hostIn (d : DState) (s : State) : (s.setDstate d).hostIn = s.hostIn := rfl
@[simp] theorem setDstate_hostOut (d : DState) (s : State) : (s.setDstate d).hostOut = s.hostOut := rfl
@[simp] theorem setDstate_xfers (d : DState) (s : State) : (s.setDstate d).xfers = s.xfers := rfl
@[simp] theorem setDstate_freeCount (d : DState) (s : State) : (s.setDstate d).freeCount = s.freeCount := rfl

/-! ### setCstate -/

@[simp] theorem setCstate_cr (c : CState) (s : State) : (s.setCstate c).cr = s.cr := rfl
@[simp] theorem setCstate_tc (c : CState) (s : State) : (s.setCstate c).tc = s.tc := rfl
@[simp] theorem setCstate_hdr (c : CState) (s : State) : (s.setCstate c).hdr = s.hdr := rfl
@[simp] theorem setCstate_cmp_cstate (c : CState) (s : State) : (s.setCstate c).cmp.cstate = c := rfl
@[simp] theorem setCstate_cmp_cur (c : CState) (s : State) : (s.setCstate c).cmp.cur = s.cmp.cur := rfl
@[simp] theorem setCstate_cmp_nload (c : CState) (s : State) : (s.setCstate c).cmp.nload = s.cmp.nload := rfl
@[simp] theorem setCstate_cmp_loadEnd (c : CState) (s : State) : (s.setCstate c).cmp.loadEnd = s.cmp.loadEnd := rfl
@[simp] theorem setCstate_cmp_scanEnd (c : CState) (s : State) : (s.setCstate c).cmp.scanEnd = s.cmp.scanEnd := rfl
@[simp] theorem setCstate_cmp_ended (c : CState) (s : State) : (s.setCstate c).cmp.ended = s.cmp.ended := rfl
@[simp] theorem setCstate_cmp_round (c : CState) (s : State) : (s.setCstate c).cmp.round = s.cmp.round := rfl
@[simp] theorem setCstate_cmp_mLen (c : CState) (s : State) : (s.setCstate c).cmp.mLen = s.cmp.mLen := rfl
@[simp] theorem setCstate_cmp_mOff (c : CState) (s : State) : (s.setCstate c).cmp.mOff = s.cmp.mOff := rfl
@[simp] theorem setCstate_cmp_nLen (c : CState) (s : State) : (s.setCstate c).cmp.nLen = s.cmp.nLen := rfl
@[simp] theorem setCstate_cmp_nOff (c : CState) (s : State) : (s.setCstate c).cmp.nOff = s.cmp.nOff := rfl
@[simp] theorem setCstate_cmp_nidx (c : CState) (s : State) : (s.setCstate c).cmp.nidx = s.cmp.nidx := rfl
@[simp] theorem setCstate_cmp_acc (c : CState) (s : State) : (s.setCstate c).cmp.acc = s.cmp.acc := rfl
@[simp] theorem setCstate_cmp_nacc (c : CState) (s : State) : (s.setCstate c).cmp.nacc = s.cmp.nacc := rfl
@[simp] theorem setCstate_cmp_outPos (c : CState) (s : State) : (s.setCstate c).cmp.outPos = s.cmp.outPos := rfl
@[simp] theorem setCstate_cmp_cwv (c : CState) (s : State) : (s.setCstate c).cmp.cwv = s.cmp.cwv := rfl
@[simp] theorem setCstate_cmp_cwb (c : CState) (s : State) : (s.setCstate c).cmp.cwb = s.cmp.cwb := rfl
@[simp] theorem setCstate_cmp_htab (c : CState) (s : State) : (s.setCstate c).cmp.htab = s.cmp.htab := rfl
@[simp] theorem setCstate_cmp_idx (c : CState) (s : State) : (s.setCstate c).cmp.idx = s.cmp.idx := rfl
@[simp] theorem setCstate_cmp_work (c : CState) (s : State) : (s.setCstate c).cmp.work = s.cmp.work := rfl
@[simp] theorem setCstate_cmp_outb (c : CState) (s : State) : (s.setCstate c).cmp.outb = s.cmp.outb := rfl
@[simp] theorem setCstate_dec (c : CState) (s : State) : (s.setCstate c).dec = s.dec := rfl
@[simp] theorem setCstate_hostIn (c : CState) (s : State) : (s.setCstate c).hostIn = s.hostIn := rfl
@[simp] theorem setCstate_hostOut (c : CState) (s : State) : (s.setCstate c).hostOut = s.hostOut := rfl
@[simp] theorem setCstate_xfers (c : CState) (s : State) : (s.setCstate c).xfers = s.xfers := rfl
@[simp] theorem setCstate_freeCount (c : CState) (s : State) : (s.setCstate c).freeCount = s.freeCount := rfl

/-! ### clearAcc -/

@[simp] theorem clearAcc_cr (s : State) : (clearAcc s).cr = s.cr := rfl
@[simp] theorem clearAcc_tc (s : State) : (clearAcc s).tc = s.tc := rfl
@[simp] theorem clearAcc_hdr (s : State) : (clearAcc s).hdr = s.hdr := rfl
@[simp] theorem clearAcc_cmp_cstate (s : State) : (clearAcc s).cmp.cstate = s.cmp.cstate := rfl
@[simp] theorem clearAcc_cmp_cur (s : State) : (clearAcc s).cmp.cur = s.cmp.cur := rfl
@[simp] theorem clearAcc_cmp_nload (s : State) : (clearAcc s).cmp.nload = s.cmp.nload := rfl
@[simp] theorem clearAcc_cmp_loadEnd (s : State) : (clearAcc s).cmp.loadEnd = s.cmp.loadEnd := rfl
@[simp] theorem clearAcc_cmp_scanEnd (s : State) : (clearAcc s).cmp.scanEnd = s.cmp.scanEnd := rfl
@[simp] theorem clearAcc_cmp_ended (s : State) : (clearAcc s).cmp.ended = s.cmp.ended := rfl
@[simp] theorem clearAcc_cmp_round (s : State) : (clearAcc s).cmp.round = s.cmp.round := rfl
@[simp] theorem clearAcc_cmp_mLen (s : State) : (clearAcc s).cmp.mLen = s.cmp.mLen := rfl
@[simp] theorem clearAcc_cmp_mOff (s : State) : (clearAcc s).cmp.mOff = s.cmp.mOff := rfl
@[simp] theorem clearAcc_cmp_nLen (s : State) : (clearAcc s).cmp.nLen = s.cmp.nLen := rfl
@[simp] theorem clearAcc_cmp_nOff (s : State) : (clearAcc s).cmp.nOff = s.cmp.nOff := rfl
@[simp] theorem clearAcc_cmp_nidx (s : State) : (clearAcc s).cmp.nidx = s.cmp.nidx := rfl
@[simp] theorem clearAcc_cmp_acc (s : State) : (clearAcc s).cmp.acc = 0 := rfl
@[simp] theorem clearAcc_cmp_nacc (s : State) : (clearAcc s).cmp.nacc = 0 := rfl
@[simp] theorem clearAcc_cmp_outPos (s : State) : (clearAcc s).cmp.outPos = s.cmp.outPos := rfl
@[simp] theorem clearAcc_cmp_cwv (s : State) : (clearAcc s).cmp.cwv = s.cmp.cwv := rfl
@[simp] theorem clearAcc_cmp_cwb (s : State) : (clearAcc s).cmp.cwb = s.cmp.cwb := rfl
@[simp] theorem clearAcc_cmp_htab (s : State) : (clearAcc s).cmp.htab = s.cmp.htab := rfl
@[simp] theorem clearAcc_cmp_idx (s : State) : (clearAcc s).cmp.idx = s.cmp.idx := rfl
@[simp] theorem clearAcc_cmp_work (s : State) : (clearAcc s).cmp.work = s.cmp.work := rfl
@[simp] theorem clearAcc_cmp_outb (s : State) : (clearAcc s).cmp.outb = s.cmp.outb := rfl
@[simp] theorem clearAcc_dec (s : State) : (clearAcc s).dec = s.dec := rfl
@[simp] theorem clearAcc_hostIn (s : State) : (clearAcc s).hostIn = s.hostIn := rfl
@[simp] theorem clearAcc_hostOut (s : State) : (clearAcc s).hostOut = s.hostOut := rfl
@[simp] theorem clearAcc_xfers (s : State) : (clearAcc s).xfers = s.xfers := rfl
@[simp] theorem clearAcc_freeCount (s : State) : (clearAcc s).freeCount = s.freeCount := rfl

/-! ### addToAcc -/

@[simp] theorem addToAcc_cr (take v : Nat) (s : State) : (addToAcc take v s).cr = s.cr := rfl
@[simp] theorem addToAcc_tc (take v : Nat) (s : State) : (addToAcc take v s).tc = s.tc := rfl
@[simp] theorem addToAcc_hdr (take v : Nat) (s : State) : (addToAcc take v s).hdr = s.hdr := rfl
@[simp] theorem addToAcc_cmp_cstate (take v : Nat) (s : State) : (addToAcc take v s).cmp.cstate = s.cmp.cstate := rfl
@[simp] theorem addToAcc_cmp_cur (take v : Nat) (s : State) : (addToAcc take v s).cmp.cur = s.cmp.cur := rfl
@[simp] theorem addToAcc_cmp_nload (take v : Nat) (s : State) : (addToAcc take v s).cmp.nload = s.cmp.nload := rfl
@[simp] theorem addToAcc_cmp_loadEnd (take v : Nat) (s : State) : (addToAcc take v s).cmp.loadEnd = s.cmp.loadEnd := rfl
@[simp] theorem addToAcc_cmp_scanEnd (take v : Nat) (s : State) : (addToAcc take v s).cmp.scanEnd = s.cmp.scanEnd := rfl
@[simp] theorem addToAcc_cmp_ended (take v : Nat) (s : State) : (addToAcc take v s).cmp.ended = s.cmp.ended := rfl
@[simp] theorem addToAcc_cmp_round (take v : Nat) (s : State) : (addToAcc take v s).cmp.round = s.cmp.round := rfl
@[simp] theorem addToAcc_cmp_mLen (take v : Nat) (s : State) : (addToAcc take v s).cmp.mLen = s.cmp.mLen := rfl
@[simp] theorem addToAcc_cmp_mOff (take v : Nat) (s : State) : (addToAcc take v s).cmp.mOff = s.cmp.mOff := rfl
@[simp] theorem addToAcc_cmp_nLen (take v : Nat) (s : State) : (addToAcc take v s).cmp.nLen = s.cmp.nLen := rfl
@[simp] theorem addToAcc_cmp_nOff (take v : Nat) (s : State) : (addToAcc take v s).cmp.nOff = s.cmp.nOff := rfl
@[simp] theorem addToAcc_cmp_nidx (take v : Nat) (s : State) : (addToAcc take v s).cmp.nidx = s.cmp.nidx := rfl
@[simp] theorem addToAcc_cmp_acc (take v : Nat) (s : State) :
    (addToAcc take v s).cmp.acc = s.cmp.acc ||| BitVec.ofNat 8 (lowbits v take * 2 ^ s.cmp.nacc) := rfl
@[simp] theorem addToAcc_cmp_nacc (take v : Nat) (s : State) : (addToAcc take v s).cmp.nacc = s.cmp.nacc + take := rfl
@[simp] theorem addToAcc_cmp_outPos (take v : Nat) (s : State) : (addToAcc take v s).cmp.outPos = s.cmp.outPos := rfl
@[simp] theorem addToAcc_cmp_cwv (take v : Nat) (s : State) : (addToAcc take v s).cmp.cwv = s.cmp.cwv := rfl
@[simp] theorem addToAcc_cmp_cwb (take v : Nat) (s : State) : (addToAcc take v s).cmp.cwb = s.cmp.cwb := rfl
@[simp] theorem addToAcc_cmp_htab (take v : Nat) (s : State) : (addToAcc take v s).cmp.htab = s.cmp.htab := rfl
@[simp] theorem addToAcc_cmp_idx (take v : Nat) (s : State) : (addToAcc take v s).cmp.idx = s.cmp.idx := rfl
@[simp] theorem addToAcc_cmp_work (take v : Nat) (s : State) : (addToAcc take v s).cmp.work = s.cmp.work := rfl
@[simp] theorem addToAcc_cmp_outb (take v : Nat) (s : State) : (addToAcc take v s).cmp.outb = s.cmp.outb := rfl
@[simp] theorem addToAcc_dec (take v : Nat) (s : State) : (addToAcc take v s).dec = s.dec := rfl
@[simp] theorem addToAcc_hostIn (take v : Nat) (s : State) : (addToAcc take v s).hostIn = s.hostIn := rfl
@[simp] theorem addToAcc_hostOut (take v : Nat) (s : State) : (addToAcc take v s).hostOut = s.hostOut := rfl
@[simp] theorem addToAcc_xfers (take v : Nat) (s : State) : (addToAcc take v s).xfers = s.xfers := rfl
@[simp] theorem addToAcc_freeCount (take v : Nat) (s : State) : (addToAcc take v s).freeCount = s.freeCount := rfl

/-! ### setMatch -/

@[simp] theorem setMatch_cr (m : Nat × Nat) (s : State) : (setMatch m s).cr = s.cr := rfl
@[simp] theorem setMatch_tc (m : Nat × Nat) (s : State) : (setMatch m s).tc = s.tc := rfl
@[simp] theorem setMatch_hdr (m : Nat × Nat) (s : State) : (setMatch m s).hdr = s.hdr := rfl
@[simp] theorem setMatch_cmp_cstate (m : Nat × Nat) (s : State) : (setMatch m s).cmp.cstate = s.cmp.cstate := rfl
@[simp] theorem setMatch_cmp_cur (m : Nat × Nat) (s : State) : (setMatch m s).cmp.cur = s.cmp.cur := rfl
@[simp] theorem setMatch_cmp_nload (m : Nat × Nat) (s : State) : (setMatch m s).cmp.nload = s.cmp.nload := rfl
@[simp] theorem setMatch_cmp_loadEnd (m : Nat × Nat) (s : State) : (setMatch m s).cmp.loadEnd = s.cmp.loadEnd := rfl
@[simp] theorem setMatch_cmp_scanEnd (m : Nat × Nat) (s : State) : (setMatch m s).cmp.scanEnd = s.cmp.scanEnd := rfl
@[simp] theorem setMatch_cmp_ended (m : Nat × Nat) (s : State) : (setMatch m s).cmp.ended = s.cmp.ended := rfl
@[simp] theorem setMatch_cmp_round (m : Nat × Nat) (s : State) : (setMatch m s).cmp.round = s.cmp.round := rfl
@[simp] theorem setMatch_cmp_mLen (m : Nat × Nat) (s : State) : (setMatch m s).cmp.mLen = m.1 := rfl
@[simp] theorem setMatch_cmp_mOff (m : Nat × Nat) (s : State) : (setMatch m s).cmp.mOff = m.2 := rfl
@[simp] theorem setMatch_cmp_nLen (m : Nat × Nat) (s : State) : (setMatch m s).cmp.nLen = s.cmp.nLen := rfl
@[simp] theorem setMatch_cmp_nOff (m : Nat × Nat) (s : State) : (setMatch m s).cmp.nOff = s.cmp.nOff := rfl
@[simp] theorem setMatch_cmp_nidx (m : Nat × Nat) (s : State) : (setMatch m s).cmp.nidx = s.cmp.nidx := rfl
@[simp] theorem setMatch_cmp_acc (m : Nat × Nat) (s : State) : (setMatch m s).cmp.acc = s.cmp.acc := rfl
@[simp] theorem setMatch_cmp_nacc (m : Nat × Nat) (s : State) : (setMatch m s).cmp.nacc = s.cmp.nacc := rfl
@[simp] theorem setMatch_cmp_outPos (m : Nat × Nat) (s : State) : (setMatch m s).cmp.outPos = s.cmp.outPos := rfl
@[simp] theorem setMatch_cmp_cwv (m : Nat × Nat) (s : State) : (setMatch m s).cmp.cwv = s.cmp.cwv := rfl
@[simp] theorem setMatch_cmp_cwb (m : Nat × Nat) (s : State) : (setMatch m s).cmp.cwb = s.cmp.cwb := rfl
@[simp] theorem setMatch_cmp_htab (m : Nat × Nat) (s : State) : (setMatch m s).cmp.htab = s.cmp.htab := rfl
@[simp] theorem setMatch_cmp_idx (m : Nat × Nat) (s : State) : (setMatch m s).cmp.idx = s.cmp.idx := rfl
@[simp] theorem setMatch_cmp_work (m : Nat × Nat) (s : State) : (setMatch m s).cmp.work = s.cmp.work := rfl
@[simp] theorem setMatch_cmp_outb (m : Nat × Nat) (s : State) : (setMatch m s).cmp.outb = s.cmp.outb := rfl
@[simp] theorem setMatch_dec (m : Nat × Nat) (s : State) : (setMatch m s).dec = s.dec := rfl
@[simp] theorem setMatch_hostIn (m : Nat × Nat) (s : State) : (setMatch m s).hostIn = s.hostIn := rfl
@[simp] theorem setMatch_hostOut (m : Nat × Nat) (s : State) : (setMatch m s).hostOut = s.hostOut := rfl
@[simp] theorem setMatch_xfers (m : Nat × Nat) (s : State) : (setMatch m s).xfers = s.xfers := rfl
@[simp] theorem setMatch_freeCount (m : Nat × Nat) (s : State) : (setMatch m s).freeCount = s.freeCount := rfl

/-! ### setNextMatch -/

@[simp] theorem setNextMatch_cr (m : Nat × Nat) (s : State) : (setNextMatch m s).cr = s.cr := rfl
@[simp] theorem setNextMatch_tc (m : Nat × Nat) (s : State) : (setNextMatch m s).tc = s.tc := rfl
@[simp] theorem setNextMatch_hdr (m : Nat × Nat) (s : State) : (setNextMatch m s).hdr = s.hdr := rfl
@[simp] theorem setNextMatch_cmp_cstate (m : Nat × Nat) (s : State) : (setNextMatch m s).cmp.cstate = s.cmp.cstate := rfl
@[simp] theorem setNextMatch_cmp_cur (m : Nat × Nat) (s : State) : (setNextMatch m s).cmp.cur = s.cmp.cur := rfl
@[simp] theorem setNextMatch_cmp_nload (m : Nat × Nat) (s : State) : (setNextMatch m s).cmp.nload = s.cmp.nload := rfl
@[simp] theorem setNextMatch_cmp_loadEnd (m : Nat × Nat) (s : State) : (setNextMatch m s).cmp.loadEnd = s.cmp.loadEnd := rfl
@[simp] theorem setNextMatch_cmp_scanEnd (m : Nat × Nat) (s : State) : (setNextMatch m s).cmp.scanEnd = s.cmp.scanEnd := rfl
@[simp] theorem setNextMatch_cmp_ended (m : Nat × Nat) (s : State) : (setNextMatch m s).cmp.ended = s.cmp.ended := rfl
@[simp] theorem setNextMatch_cmp_round (m : Nat × Nat) (s : State) : (setNextMatch m s).cmp.round = s.cmp.round := rfl
@[simp] theorem setNextMatch_cmp_mLen (m : Nat × Nat) (s : State) : (setNextMatch m s).cmp.mLen = s.cmp.mLen := rfl
@[simp] theorem setNextMatch_cmp_mOff (m : Nat × Nat) (s : State) : (setNextMatch m s).cmp.mOff = s.cmp.mOff := rfl
@[simp] theorem setNextMatch_cmp_nLen (m : Nat × Nat) (s : State) : (setNextMatch m s).cmp.nLen = m.1 := rfl
@[simp] theorem setNextMatch_cmp_nOff (m : Nat × Nat) (s : State) : (setNextMatch m s).cmp.nOff = m.2 := rfl
@[simp] theorem setNextMatch_cmp_nidx (m : Nat × Nat) (s : State) : (setNextMatch m s).cmp.nidx = s.cmp.nidx := rfl
@[simp] theorem setNextMatch_cmp_acc (m : Nat × Nat) (s : State) : (setNextMatch m s).cmp.acc = s.cmp.acc := rfl
@[simp] theorem setNextMatch_cmp_nacc (m : Nat × Nat) (s : State) : (setNextMatch m s).cmp.nacc = s.cmp.nacc := rfl
@[simp] theorem setNextMatch_cmp_outPos (m : Nat × Nat) (s : State) : (setNextMatch m s).cmp.outPos = s.cmp.outPos := rfl
@[simp] theorem setNextMatch_cmp_cwv (m : Nat × Nat) (s : State) : (setNextMatch m s).cmp.cwv = s.cmp.cwv := rfl
@[simp] theorem setNextMatch_cmp_cwb (m : Nat × Nat) (s : State) : (setNextMatch m s).cmp.cwb = s.cmp.cwb := rfl
@[simp] theorem setNextMatch_cmp_htab (m : Nat × Nat) (s : State) : (setNextMatch m s).cmp.htab = s.cmp.htab := rfl
@[simp] theorem setNextMatch_cmp_idx (m : Nat × Nat) (s : State) : (setNextMatch m s).cmp.idx = s.cmp.idx := rfl
@[simp] theorem setNextMatch_cmp_work (m : Nat × Nat) (s : State) : (setNextMatch m s).cmp.work = s.cmp.work := rfl
@[simp] theorem setNextMatch_cmp_outb (m : Nat × Nat) (s : State) : (setNextMatch m s).cmp.outb = s.cmp.outb := rfl
@[simp] theorem setNextMatch_dec (m : Nat × Nat) (s : State) : (setNextMatch m s).dec = s.dec := rfl
@[simp] theorem setNextMatch_hostIn (m : Nat × Nat) (s : State) : (setNextMatch m s).hostIn = s.hostIn := rfl
@[simp] theorem setNextMatch_hostOut (m : Nat × Nat) (s : State) : (setNextMatch m s).hostOut = s.hostOut := rfl
@[simp] theorem setNextMatch_xfers (m : Nat × Nat) (s : State) : (setNextMatch m s).xfers = s.xfers := rfl
@[simp] theorem setNextMatch_freeCount (m : Nat × Nat) (s : State) : (setNextMatch m s).freeCount = s.freeCount := rfl

/-! ### buildCw -/

@[simp] theorem buildCw_cr (T : Config.CodeTables) (s : State) : (buildCw T s).cr = s.cr := rfl
@[simp] theorem buildCw_tc (T : Config.CodeTables) (s : State) : (buildCw T s).tc = s.tc := rfl
@[simp] theorem buildCw_hdr (T : Config.CodeTables) (s : State) : (buildCw T s).hdr = s.hdr := rfl
@[simp] theorem buildCw_cmp_cstate (T : Config.CodeTables) (s : State) : (buildCw T s).cmp.cstate = s.cmp.cstate := rfl
@[simp] theorem buildCw_cmp_cur (T : Config.CodeTables) (s : State) : (buildCw T s).cmp.cur = s.cmp.cur := rfl
@[simp] theorem buildCw_cmp_nload (T : Config.CodeTables) (s : State) : (buildCw T s).cmp.nload = s.cmp.nload := rfl
@[simp] theorem buildCw_cmp_loadEnd (T : Config.CodeTables) (s : State) : (buildCw T s).cmp.loadEnd = s.cmp.loadEnd := rfl
@[simp] theorem buildCw_cmp_scanEnd (T : Config.CodeTables) (s : State) : (buildCw T s).cmp.scanEnd = s.cmp.scanEnd := rfl
@[simp] theorem buildCw_cmp_ended (T : Config.CodeTables) (s : State) : (buildCw T s).cmp.ended = s.cmp.ended := rfl
@[simp] theorem buildCw_cmp_round (T : Config.CodeTables) (s : State) : (buildCw T s).cmp.round = s.cmp.round := rfl
@[simp] theorem buildCw_cmp_mLen (T : Config.CodeTables) (s : State) : (buildCw T s).cmp.mLen = s.cmp.mLen := rfl
@[simp] theorem buildCw_cmp_mOff (T : Config.CodeTables) (s : State) : (buildCw T s).cmp.mOff = s.cmp.mOff := rfl
@[simp] theorem buildCw_cmp_nLen (T : Config.CodeTables) (s : State) : (buildCw T s).cmp.nLen = s.cmp.nLen := rfl
@[simp] theorem buildCw_cmp_nOff (T : Config.CodeTables) (s : State) : (buildCw T s).cmp.nOff = s.cmp.nOff := rfl
@[simp] theorem buildCw_cmp_nidx (T : Config.CodeTables) (s : State) : (buildCw T s).cmp.nidx = s.cmp.nidx := rfl
@[simp] theorem buildCw_cmp_acc (T : Config.CodeTables) (s : State) : (buildCw T s).cmp.acc = s.cmp.acc := rfl
@[simp] theorem buildCw_cmp_nacc (T : Config.CodeTables) (s : State) : (buildCw T s).cmp.nacc = s.cmp.nacc := rfl
@[simp] theorem buildCw_cmp_outPos (T : Config.CodeTables) (s : State) : (buildCw T s).cmp.outPos = s.cmp.outPos := rfl
@[simp] theorem buildCw_cmp_cwv (T : Config.CodeTables) (s : State) : (buildCw T s).cmp.cwv = builtCwv T := rfl
@[simp] theorem buildCw_cmp_cwb (T : Config.CodeTables) (s : State) : (buildCw T s).cmp.cwb = builtCwb T := rfl
@[simp] theorem buildCw_cmp_htab (T : Config.CodeTables) (s : State) : (buildCw T s).cmp.htab = s.cmp.htab := rfl
@[simp] theorem buildCw_cmp_idx (T : Config.CodeTables) (s : State) : (buildCw T s).cmp.idx = s.cmp.idx := rfl
@[simp] theorem buildCw_cmp_work (T : Config.CodeTables) (s : State) : (buildCw T s).cmp.work = s.cmp.work := rfl
@[simp] theorem buildCw_cmp_outb (T : Config.CodeTables) (s : State) : (buildCw T s).cmp.outb = s.cmp.outb := rfl
@[simp] theorem buildCw_dec (T : Config.CodeTables) (s : State) : (buildCw T s).dec = s.dec := rfl
@[simp] theorem buildCw_hostIn (T : Config.CodeTables) (s : State) : (buildCw T s).hostIn = s.hostIn := rfl
@[simp] theorem buildCw_hostOut (T : Config.CodeTables) (s : State) : (buildCw T s).hostOut = s.hostOut := rfl
@[simp] theorem buildCw_xfers (T : Config.CodeTables) (s : State) : (buildCw T s).xfers = s.xfers := rfl
@[simp] theorem buildCw_freeCount (T : Config.CodeTables) (s : State) : (buildCw T s).freeCount = s.freeCount := rfl

/-! ### buildJumps -/

@[simp] theorem buildJumps_cr (T : Config.CodeTables) (s : State) : (buildJumps T s).cr = s.cr := rfl
@[simp] theorem buildJumps_tc (T : Config.CodeTables) (s : State) : (buildJumps T s).tc = s.tc := rfl
@[simp] theorem buildJumps_hdr (T : Config.CodeTables) (s : State) : (buildJumps T s).hdr = s.hdr := rfl
@[simp] theorem buildJumps_cmp (T : Config.CodeTables) (s : State) : (buildJumps T s).cmp = s.cmp := rfl
@[simp] theorem buildJumps_dec_dstate (T : Config.CodeTables) (s : State) : (buildJumps T s).dec.dstate = s.dec.dstate := rfl
@[simp] theorem buildJumps_dec_bitbuf (T : Config.CodeTables) (s : State) : (buildJumps T s).dec.bitbuf = s.dec.bitbuf := rfl
@[simp] theorem buildJumps_dec_nbits (T : Config.CodeTables) (s : State) : (buildJumps T s).dec.nbits = s.dec.nbits := rfl
@[simp] theorem buildJumps_dec_inPos (T : Config.CodeTables) (s : State) : (buildJumps T s).dec.inPos = s.dec.inPos := rfl
@[simp] theorem buildJumps_dec_inFill (T : Config.CodeTables) (s : State) : (buildJumps T s).dec.inFill = s.dec.inFill := rfl
@[simp] theorem buildJumps_dec_inEof (T : Config.CodeTables) (s : State) : (buildJumps T s).dec.inEof = s.dec.inEof := rfl
@[simp] theorem buildJumps_dec_wpos (T : Config.CodeTables) (s : State) : (buildJumps T s).dec.wpos = s.dec.wpos := rfl
@[simp] theorem buildJumps_dec_hist (T : Config.CodeTables) (s : State) : (buildJumps T s).dec.hist = s.dec.hist := rfl
@[simp] theorem buildJumps_dec_tLen (T : Config.CodeTables) (s : State) : (buildJumps T s).dec.tLen = s.dec.tLen := rfl
@[simp] theorem buildJumps_dec_tOff (T : Config.CodeTables) (s : State) : (buildJumps T s).dec.tOff = s.dec.tOff := rfl
@[simp] theorem buildJumps_dec_src (T : Config.CodeTables) (s : State) : (buildJumps T s).dec.src = s.dec.src := rfl
@[simp] theorem buildJumps_dec_lenj (T : Config.CodeTables) (s : State) : (buildJumps T s).dec.lenj = builtLenj T := rfl
@[simp] theorem buildJumps_dec_distj (T : Config.CodeTables) (s : State) : (buildJumps T s).dec.distj = builtDistj T := rfl
@[simp] theorem buildJumps_dec_inb (T : Config.CodeTables) (s : State) : (buildJumps T s).dec.inb = s.dec.inb := rfl
@[simp] theorem buildJumps_dec_win (T : Config.CodeTables) (s : State) : (buildJumps T s).dec.win = s.dec.win := rfl
@[simp] theorem buildJumps_dec_hdrByte0 (T : Config.CodeTables) (s : State) :
    (buildJumps T s).dec.hdrByte0 = s.dec.hdrByte0 := rfl
@[simp] theorem buildJumps_dec_offNext (T : Config.CodeTables) (s : State) :
    (buildJumps T s).dec.offNext = s.dec.offNext := rfl
@[simp] theorem buildJumps_hostIn (T : Config.CodeTables) (s : State) : (buildJumps T s).hostIn = s.hostIn := rfl
@[simp] theorem buildJumps_hostOut (T : Config.CodeTables) (s : State) : (buildJumps T s).hostOut = s.hostOut := rfl
@[simp] theorem buildJumps_xfers (T : Config.CodeTables) (s : State) : (buildJumps T s).xfers = s.xfers := rfl
@[simp] theorem buildJumps_freeCount (T : Config.CodeTables) (s : State) : (buildJumps T s).freeCount = s.freeCount := rfl

/-! ### loadByte -/

@[simp] theorem loadByte_cr (b : Byte) (s : State) : (loadByte b s).cr = s.cr := rfl
@[simp] theorem loadByte_tc (b : Byte) (s : State) : (loadByte b s).tc = s.tc := rfl
@[simp] theorem loadByte_hdr (b : Byte) (s : State) : (loadByte b s).hdr = s.hdr := rfl
@[simp] theorem loadByte_cmp (b : Byte) (s : State) : (loadByte b s).cmp = s.cmp := rfl
@[simp] theorem loadByte_dec_dstate (b : Byte) (s : State) : (loadByte b s).dec.dstate = s.dec.dstate := rfl
@[simp] theorem loadByte_dec_bitbuf (b : Byte) (s : State) :
    (loadByte b s).dec.bitbuf = s.dec.bitbuf ||| (b.setWidth 16 <<< s.dec.nbits) := rfl
@[simp] theorem loadByte_dec_nbits (b : Byte) (s : State) : (loadByte b s).dec.nbits = s.dec.nbits + 8 := rfl
@[simp] theorem loadByte_dec_inPos (b : Byte) (s : State) : (loadByte b s).dec.inPos = s.dec.inPos := rfl
@[simp] theorem loadByte_dec_inFill (b : Byte) (s : State) : (loadByte b s).dec.inFill = s.dec.inFill := rfl
@[simp] theorem loadByte_dec_inEof (b : Byte) (s : State) : (loadByte b s).dec.inEof = s.dec.inEof := rfl
@[simp] theorem loadByte_dec_wpos (b : Byte) (s : State) : (loadByte b s).dec.wpos = s.dec.wpos := rfl
@[simp] theorem loadByte_dec_hist (b : Byte) (s : State) : (loadByte b s).dec.hist = s.dec.hist := rfl
@[simp] theorem loadByte_dec_tLen (b : Byte) (s : State) : (loadByte b s).dec.tLen = s.dec.tLen := rfl
@[simp] theorem loadByte_dec_tOff (b : Byte) (s : State) : (loadByte b s).dec.tOff = s.dec.tOff := rfl
@[simp] theorem loadByte_dec_src (b : Byte) (s : State) : (loadByte b s).dec.src = s.dec.src := rfl
@[simp] theorem loadByte_dec_lenj (b : Byte) (s : State) : (loadByte b s).dec.lenj = s.dec.lenj := rfl
@[simp] theorem loadByte_dec_distj (b : Byte) (s : State) : (loadByte b s).dec.distj = s.dec.distj := rfl
@[simp] theorem loadByte_dec_inb (b : Byte) (s : State) : (loadByte b s).dec.inb = s.dec.inb := rfl
@[simp] theorem loadByte_dec_win (b : Byte) (s : State) : (loadByte b s).dec.win = s.dec.win := rfl
@[simp] theorem loadByte_dec_hdrByte0 (b : Byte) (s : State) : (loadByte b s).dec.hdrByte0 = s.dec.hdrByte0 := rfl
@[simp] theorem loadByte_dec_offNext (b : Byte) (s : State) : (loadByte b s).dec.offNext = s.dec.offNext := rfl
@[simp] theorem loadByte_hostIn (b : Byte) (s : State) : (loadByte b s).hostIn = s.hostIn := rfl
@[simp] theorem loadByte_hostOut (b : Byte) (s : State) : (loadByte b s).hostOut = s.hostOut := rfl
@[simp] theorem loadByte_xfers (b : Byte) (s : State) : (loadByte b s).xfers = s.xfers := rfl
@[simp] theorem loadByte_freeCount (b : Byte) (s : State) : (loadByte b s).freeCount = s.freeCount := rfl

/-! ### loadHeader -/

@[simp] theorem loadHeader_cr (w : Byte) (s : State) : (loadHeader w s).cr = s.cr := rfl
@[simp] theorem loadHeader_tc (w : Byte) (s : State) : (loadHeader w s).tc = s.tc := rfl
@[simp] theorem loadHeader_hdr_litmode (w : Byte) (s : State) : (loadHeader w s).hdr.litmode = s.dec.hdrByte0.getD 0 := rfl
@[simp] theorem loadHeader_hdr_wsize (w : Byte) (s : State) : (loadHeader w s).hdr.wsize = w := rfl
@[simp] theorem loadHeader_cmp (w : Byte) (s : State) : (loadHeader w s).cmp = s.cmp := rfl
@[simp] theorem loadHeader_dec_dstate (w : Byte) (s : State) : (loadHeader w s).dec.dstate = s.dec.dstate := rfl
@[simp] theorem loadHeader_dec_bitbuf (w : Byte) (s : State) : (loadHeader w s).dec.bitbuf = s.dec.bitbuf := rfl
@[simp] theorem loadHeader_dec_nbits (w : Byte) (s : State) : (loadHeader w s).dec.nbits = s.dec.nbits := rfl
@[simp] theorem loadHeader_dec_inPos (w : Byte) (s : State) : (loadHeader w s).dec.inPos = s.dec.inPos := rfl
@[simp] theorem loadHeader_dec_inFill (w : Byte) (s : State) : (loadHeader w s).dec.inFill = s.dec.inFill := rfl
@[simp] theorem loadHeader_dec_inEof (w : Byte) (s : State) : (loadHeader w s).dec.inEof = s.dec.inEof := rfl
@[simp] theorem loadHeader_dec_wpos (w : Byte) (s : State) : (loadHeader w s).dec.wpos = s.dec.wpos := rfl
@[simp] theorem loadHeader_dec_hist (w : Byte) (s : State) : (loadHeader w s).dec.hist = s.dec.hist := rfl
@[simp] theorem loadHeader_dec_tLen (w : Byte) (s : State) : (loadHeader w s).dec.tLen = s.dec.tLen := rfl
@[simp] theorem loadHeader_dec_tOff (w : Byte) (s : State) : (loadHeader w s).dec.tOff = s.dec.tOff := rfl
@[simp] theorem loadHeader_dec_src (w : Byte) (s : State) : (loadHeader w s).dec.src = s.dec.src := rfl
@[simp] theorem loadHeader_dec_lenj (w : Byte) (s : State) : (loadHeader w s).dec.lenj = s.dec.lenj := rfl
@[simp] theorem loadHeader_dec_distj (w : Byte) (s : State) : (loadHeader w s).dec.distj = s.dec.distj := rfl
@[simp] theorem loadHeader_dec_inb (w : Byte) (s : State) : (loadHeader w s).dec.inb = s.dec.inb := rfl
@[simp] theorem loadHeader_dec_win (w : Byte) (s : State) : (loadHeader w s).dec.win = s.dec.win := rfl
@[simp] theorem loadHeader_dec_hdrByte0 (w : Byte) (s : State) : (loadHeader w s).dec.hdrByte0 = none := rfl
@[simp] theorem loadHeader_dec_offNext (w : Byte) (s : State) : (loadHeader w s).dec.offNext = s.dec.offNext := rfl
@[simp] theorem loadHeader_hostIn (w : Byte) (s : State) : (loadHeader w s).hostIn = s.hostIn := rfl
@[simp] theorem loadHeader_hostOut (w : Byte) (s : State) : (loadHeader w s).hostOut = s.hostOut := rfl
@[simp] theorem loadHeader_xfers (w : Byte) (s : State) : (loadHeader w s).xfers = s.xfers := rfl
@[simp] theorem loadHeader_freeCount (w : Byte) (s : State) : (loadHeader w s).freeCount = s.freeCount := rfl

/-! ### acceptHeader -/

@[simp] theorem acceptHeader_cr (T : Config.CodeTables) (s : State) : (acceptHeader T s).cr = s.cr := rfl
@[simp] theorem acceptHeader_tc (T : Config.CodeTables) (s : State) : (acceptHeader T s).tc = s.tc := rfl
@[simp] theorem acceptHeader_hdr (T : Config.CodeTables) (s : State) : (acceptHeader T s).hdr = s.hdr := rfl
@[simp] theorem acceptHeader_cmp (T : Config.CodeTables) (s : State) : (acceptHeader T s).cmp = s.cmp := rfl
@[simp] theorem acceptHeader_dec_dstate (T : Config.CodeTables) (s : State) : (acceptHeader T s).dec.dstate = .token := rfl
@[simp] theorem acceptHeader_dec_bitbuf (T : Config.CodeTables) (s : State) :
    (acceptHeader T s).dec.bitbuf = s.dec.bitbuf := rfl
@[simp] theorem acceptHeader_dec_nbits (T : Config.CodeTables) (s : State) :
    (acceptHeader T s).dec.nbits = s.dec.nbits := rfl
@[simp] theorem acceptHeader_dec_inPos (T : Config.CodeTables) (s : State) :
    (acceptHeader T s).dec.inPos = s.dec.inPos := rfl
@[simp] theorem acceptHeader_dec_inFill (T : Config.CodeTables) (s : State) :
    (acceptHeader T s).dec.inFill = s.dec.inFill := rfl
@[simp] theorem acceptHeader_dec_inEof (T : Config.CodeTables) (s : State) :
    (acceptHeader T s).dec.inEof = s.dec.inEof := rfl
@[simp] theorem acceptHeader_dec_wpos (T : Config.CodeTables) (s : State) :
    (acceptHeader T s).dec.wpos = Config.decHist := rfl
@[simp] theorem acceptHeader_dec_hist (T : Config.CodeTables) (s : State) : (acceptHeader T s).dec.hist = 0 := rfl
@[simp] theorem acceptHeader_dec_tLen (T : Config.CodeTables) (s : State) : (acceptHeader T s).dec.tLen = s.dec.tLen := rfl
@[simp] theorem acceptHeader_dec_tOff (T : Config.CodeTables) (s : State) : (acceptHeader T s).dec.tOff = s.dec.tOff := rfl
@[simp] theorem acceptHeader_dec_src (T : Config.CodeTables) (s : State) : (acceptHeader T s).dec.src = s.dec.src := rfl
@[simp] theorem acceptHeader_dec_lenj (T : Config.CodeTables) (s : State) : (acceptHeader T s).dec.lenj = builtLenj T := rfl
@[simp] theorem acceptHeader_dec_distj (T : Config.CodeTables) (s : State) :
    (acceptHeader T s).dec.distj = builtDistj T := rfl
@[simp] theorem acceptHeader_dec_inb (T : Config.CodeTables) (s : State) : (acceptHeader T s).dec.inb = s.dec.inb := rfl
@[simp] theorem acceptHeader_dec_win (T : Config.CodeTables) (s : State) : (acceptHeader T s).dec.win = s.dec.win := rfl
@[simp] theorem acceptHeader_dec_hdrByte0 (T : Config.CodeTables) (s : State) :
    (acceptHeader T s).dec.hdrByte0 = s.dec.hdrByte0 := rfl
@[simp] theorem acceptHeader_dec_offNext (T : Config.CodeTables) (s : State) :
    (acceptHeader T s).dec.offNext = s.dec.offNext := rfl
@[simp] theorem acceptHeader_hostIn (T : Config.CodeTables) (s : State) : (acceptHeader T s).hostIn = s.hostIn := rfl
@[simp] theorem acceptHeader_hostOut (T : Config.CodeTables) (s : State) : (acceptHeader T s).hostOut = s.hostOut := rfl
@[simp] theorem acceptHeader_xfers (T : Config.CodeTables) (s : State) : (acceptHeader T s).xfers = s.xfers := rfl
@[simp] theorem acceptHeader_freeCount (T : Config.CodeTables) (s : State) :
    (acceptHeader T s).freeCount = s.freeCount := rfl

/-! ### startCommand -/

@[simp] theorem startCommand_cr_cmd (c : BitVec 2) (s : State) : (s.startCommand c).cr.cmd = c := rfl
@[simp] theorem startCommand_cr_wsizeCfg (c : BitVec 2) (s : State) : (s.startCommand c).cr.wsizeCfg = s.cr.wsizeCfg := rfl
@[simp] theorem startCommand_cr_argInLen (c : BitVec 2) (s : State) : (s.startCommand c).cr.argInLen = s.cr.argInLen := rfl
@[simp] theorem startCommand_cr_argOutCap (c : BitVec 2) (s : State) :
    (s.startCommand c).cr.argOutCap = s.cr.argOutCap := rfl
@[simp] theorem startCommand_cr_status (c : BitVec 2) (s : State) : (s.startCommand c).cr.status = statusStart := rfl
@[simp] theorem startCommand_tc_inCur (c : BitVec 2) (s : State) : (s.startCommand c).tc.inCur = 0 := rfl
@[simp] theorem startCommand_tc_inLen (c : BitVec 2) (s : State) : (s.startCommand c).tc.inLen = s.cr.argInLen := rfl
@[simp] theorem startCommand_tc_outCur (c : BitVec 2) (s : State) : (s.startCommand c).tc.outCur = 0 := rfl
@[simp] theorem startCommand_tc_outLimit (c : BitVec 2) (s : State) : (s.startCommand c).tc.outLimit = s.cr.argOutCap := rfl
@[simp] theorem startCommand_tc_stop (c : BitVec 2) (s : State) : (s.startCommand c).tc.stop = false := rfl
@[simp] theorem startCommand_hdr (c : BitVec 2) (s : State) : (s.startCommand c).hdr = s.hdr := rfl
@[simp] theorem startCommand_cmp (c : BitVec 2) (s : State) : (s.startCommand c).cmp = s.cmp := rfl
@[simp] theorem startCommand_dec (c : BitVec 2) (s : State) : (s.startCommand c).dec = s.dec := rfl
@[simp] theorem startCommand_hostIn (c : BitVec 2) (s : State) : (s.startCommand c).hostIn = s.hostIn := rfl
@[simp] theorem startCommand_hostOut (c : BitVec 2) (s : State) : (s.startCommand c).hostOut = s.hostOut := rfl
@[simp] theorem startCommand_xfers (c : BitVec 2) (s : State) : (s.startCommand c).xfers = [] := rfl
@[simp] theorem startCommand_freeCount (c : BitVec 2) (s : State) : (s.startCommand c).freeCount = s.freeCount := rfl

/-! ### complete_cmp -/

@[simp] theorem complete_cmp_cr_cmd (s : State) : (s.complete .cmp).cr.cmd = 0 := rfl
@[simp] theorem complete_cmp_cr_wsizeCfg (s : State) : (s.complete .cmp).cr.wsizeCfg = s.cr.wsizeCfg := rfl
@[simp] theorem complete_cmp_cr_argInLen (s : State) : (s.complete .cmp).cr.argInLen = s.cr.argInLen := rfl
@[simp] theorem complete_cmp_cr_argOutCap (s : State) : (s.complete .cmp).cr.argOutCap = s.tc.outCur := rfl
@[simp] theorem complete_cmp_cr_status (s : State) : (s.complete .cmp).cr.status = statusOk := rfl
@[simp] theorem complete_cmp_tc (s : State) : (s.complete .cmp).tc = s.tc := rfl
@[simp] theorem complete_cmp_hdr (s : State) : (s.complete .cmp).hdr = s.hdr := rfl
@[simp] theorem complete_cmp_cmp_cstate (s : State) : (s.complete .cmp).cmp.cstate = .done := rfl
@[simp] theorem complete_cmp_cmp_cur (s : State) : (s.complete .cmp).cmp.cur = s.cmp.cur := rfl
@[simp] theorem complete_cmp_cmp_nload (s : State) : (s.complete .cmp).cmp.nload = s.cmp.nload := rfl
@[simp] theorem complete_cmp_cmp_loadEnd (s : State) : (s.complete .cmp).cmp.loadEnd = s.cmp.loadEnd := rfl
@[simp] theorem complete_cmp_cmp_scanEnd (s : State) : (s.complete .cmp).cmp.scanEnd = s.cmp.scanEnd := rfl
@[simp] theorem complete_cmp_cmp_ended (s : State) : (s.complete .cmp).cmp.ended = s.cmp.ended := rfl
@[simp] theorem complete_cmp_cmp_round (s : State) : (s.complete .cmp).cmp.round = s.cmp.round := rfl
@[simp] theorem complete_cmp_cmp_mLen (s : State) : (s.complete .cmp).cmp.mLen = s.cmp.mLen := rfl
@[simp] theorem complete_cmp_cmp_mOff (s : State) : (s.complete .cmp).cmp.mOff = s.cmp.mOff := rfl
@[simp] theorem complete_cmp_cmp_nLen (s : State) : (s.complete .cmp).cmp.nLen = s.cmp.nLen := rfl
@[simp] theorem complete_cmp_cmp_nOff (s : State) : (s.complete .cmp).cmp.nOff = s.cmp.nOff := rfl
@[simp] theorem complete_cmp_cmp_nidx (s : State) : (s.complete .cmp).cmp.nidx = s.cmp.nidx := rfl
@[simp] theorem complete_cmp_cmp_acc (s : State) : (s.complete .cmp).cmp.acc = s.cmp.acc := rfl
@[simp] theorem complete_cmp_cmp_nacc (s : State) : (s.complete .cmp).cmp.nacc = s.cmp.nacc := rfl
@[simp] theorem complete_cmp_cmp_outPos (s : State) : (s.complete .cmp).cmp.outPos = s.cmp.outPos := rfl
@[simp] theorem complete_cmp_cmp_cwv (s : State) : (s.complete .cmp).cmp.cwv = s.cmp.cwv := rfl
@[simp] theorem complete_cmp_cmp_cwb (s : State) : (s.complete .cmp).cmp.cwb = s.cmp.cwb := rfl
@[simp] theorem complete_cmp_cmp_htab (s : State) : (s.complete .cmp).cmp.htab = s.cmp.htab := rfl
@[simp] theorem complete_cmp_cmp_idx (s : State) : (s.complete .cmp).cmp.idx = s.cmp.idx := rfl
@[simp] theorem complete_cmp_cmp_work (s : State) : (s.complete .cmp).cmp.work = s.cmp.work := rfl
@[simp] theorem complete_cmp_cmp_outb (s : State) : (s.complete .cmp).cmp.outb = s.cmp.outb := rfl
@[simp] theorem complete_cmp_dec (s : State) : (s.complete .cmp).dec = s.dec := rfl
@[simp] theorem complete_cmp_hostIn (s : State) : (s.complete .cmp).hostIn = s.hostIn := rfl
@[simp] theorem complete_cmp_hostOut (s : State) : (s.complete .cmp).hostOut = s.hostOut := rfl
@[simp] theorem complete_cmp_xfers (s : State) : (s.complete .cmp).xfers = s.xfers := rfl
@[simp] theorem complete_cmp_freeCount (s : State) : (s.complete .cmp).freeCount = s.freeCount := rfl

/-! ### complete_dec -/

@[simp] theorem complete_dec_cr_cmd (s : State) : (s.complete .dec).cr.cmd = 0 := rfl
@[simp] theorem complete_dec_cr_wsizeCfg (s : State) : (s.complete .dec).cr.wsizeCfg = s.cr.wsizeCfg := rfl
@[simp] theorem complete_dec_cr_argInLen (s : State) : (s.complete .dec).cr.argInLen = s.cr.argInLen := rfl
@[simp] theorem complete_dec_cr_argOutCap (s : State) : (s.complete .dec).cr.argOutCap = s.tc.outCur := rfl
@[simp] theorem complete_dec_cr_status (s : State) : (s.complete .dec).cr.status = statusOk := rfl
@[simp] theorem complete_dec_tc (s : State) : (s.complete .dec).tc = s.tc := rfl
@[simp] theorem complete_dec_hdr (s : State) : (s.complete .dec).hdr = s.hdr := rfl
@[simp] theorem complete_dec_cmp (s : State) : (s.complete .dec).cmp = s.cmp := rfl
@[simp] theorem complete_dec_dec_dstate (s : State) : (s.complete .dec).dec.dstate = .done := rfl
@[simp] theorem complete_dec_dec_bitbuf (s : State) : (s.complete .dec).dec.bitbuf = s.dec.bitbuf := rfl
@[simp] theorem complete_dec_dec_nbits (s : State) : (s.complete .dec).dec.nbits = s.dec.nbits := rfl
@[simp] theorem complete_dec_dec_inPos (s : State) : (s.complete .dec).dec.inPos = s.dec.inPos := rfl
@[simp] theorem complete_dec_dec_inFill (s : State) : (s.complete .dec).dec.inFill = s.dec.inFill := rfl
@[simp] theorem complete_dec_dec_inEof (s : State) : (s.complete .dec).dec.inEof = s.dec.inEof := rfl
@[simp] theorem complete_dec_dec_wpos (s : State) : (s.complete .dec).dec.wpos = s.dec.wpos := rfl
@[simp] theorem complete_dec_dec_hist (s : State) : (s.complete .dec).dec.hist = s.dec.hist := rfl
@[simp] theorem complete_dec_dec_tLen (s : State) : (s.complete .dec).dec.tLen = s.dec.tLen := rfl
@[simp] theorem complete_dec_dec_tOff (s : State) : (s.complete .dec).dec.tOff = s.dec.tOff := rfl
@[simp] theorem complete_dec_dec_src (s : State) : (s.complete .dec).dec.src = s.dec.src := rfl
@[simp] theorem complete_dec_dec_lenj (s : State) : (s.complete .dec).dec.lenj = s.dec.lenj := rfl
@[simp] theorem complete_dec_dec_distj (s : State) : (s.complete .dec).dec.distj = s.dec.distj := rfl
@[simp] theorem complete_dec_dec_inb (s : State) : (s.complete .dec).dec.inb = s.dec.inb := rfl
@[simp] theorem complete_dec_dec_win (s : State) : (s.complete .dec).dec.win = s.dec.win := rfl
@[simp] theorem complete_dec_dec_hdrByte0 (s : State) : (s.complete .dec).dec.hdrByte0 = s.dec.hdrByte0 := rfl
@[simp] theorem complete_dec_dec_offNext (s : State) : (s.complete .dec).dec.offNext = s.dec.offNext := rfl
@[simp] theorem complete_dec_hostIn (s : State) : (s.complete .dec).hostIn = s.hostIn := rfl
@[simp] theorem complete_dec_hostOut (s : State) : (s.complete .dec).hostOut = s.hostOut := rfl
@[simp] theorem complete_dec_xfers (s : State) : (s.complete .dec).xfers = s.xfers := rfl
@[simp] theorem complete_dec_freeCount (s : State) : (s.complete .dec).freeCount = s.freeCount := rfl

/-! ### fail_cmp -/

@[simp] theorem fail_cmp_cr_cmd (P : Config.Params) (c : Cause) (s : State) : (s.fail P .cmp c).cr.cmd = 0 := rfl
@[simp] theorem fail_cmp_cr_wsizeCfg (P : Config.Params) (c : Cause) (s : State) :
    (s.fail P .cmp c).cr.wsizeCfg = s.cr.wsizeCfg := rfl
@[simp] theorem fail_cmp_cr_argInLen (P : Config.Params) (c : Cause) (s : State) :
    (s.fail P .cmp c).cr.argInLen = s.cr.argInLen := rfl
@[simp] theorem fail_cmp_cr_argOutCap (P : Config.Params) (c : Cause) (s : State) :
    (s.fail P .cmp c).cr.argOutCap = lowbits (Config.failOutCap s.freeCount) P.addrW := rfl
@[simp] theorem fail_cmp_cr_status (P : Config.Params) (c : Cause) (s : State) :
    (s.fail P .cmp c).cr.status = statusFail (causeKind c) c := rfl
@[simp] theorem fail_cmp_tc (P : Config.Params) (c : Cause) (s : State) : (s.fail P .cmp c).tc = s.tc := rfl
@[simp] theorem fail_cmp_hdr (P : Config.Params) (c : Cause) (s : State) : (s.fail P .cmp c).hdr = s.hdr := rfl
@[simp] theorem fail_cmp_cmp_cstate (P : Config.Params) (c : Cause) (s : State) : (s.fail P .cmp c).cmp.cstate = .fail := rfl
@[simp] theorem fail_cmp_cmp_cur (P : Config.Params) (c : Cause) (s : State) : (s.fail P .cmp c).cmp.cur = s.cmp.cur := rfl
@[simp] theorem fail_cmp_cmp_nload (P : Config.Params) (c : Cause) (s : State) :
    (s.fail P .cmp c).cmp.nload = s.cmp.nload := rfl
@[simp] theorem fail_cmp_cmp_loadEnd (P : Config.Params) (c : Cause) (s : State) :
    (s.fail P .cmp c).cmp.loadEnd = s.cmp.loadEnd := rfl
@[simp] theorem fail_cmp_cmp_scanEnd (P : Config.Params) (c : Cause) (s : State) :
    (s.fail P .cmp c).cmp.scanEnd = s.cmp.scanEnd := rfl
@[simp] theorem fail_cmp_cmp_ended (P : Config.Params) (c : Cause) (s : State) :
    (s.fail P .cmp c).cmp.ended = s.cmp.ended := rfl
@[simp] theorem fail_cmp_cmp_round (P : Config.Params) (c : Cause) (s : State) :
    (s.fail P .cmp c).cmp.round = s.cmp.round := rfl
@[simp] theorem fail_cmp_cmp_mLen (P : Config.Params) (c : Cause) (s : State) :
    (s.fail P .cmp c).cmp.mLen = s.cmp.mLen := rfl
@[simp] theorem fail_cmp_cmp_mOff (P : Config.Params) (c : Cause) (s : State) :
    (s.fail P .cmp c).cmp.mOff = s.cmp.mOff := rfl
@[simp] theorem fail_cmp_cmp_nLen (P : Config.Params) (c : Cause) (s : State) :
    (s.fail P .cmp c).cmp.nLen = s.cmp.nLen := rfl
@[simp] theorem fail_cmp_cmp_nOff (P : Config.Params) (c : Cause) (s : State) :
    (s.fail P .cmp c).cmp.nOff = s.cmp.nOff := rfl
@[simp] theorem fail_cmp_cmp_nidx (P : Config.Params) (c : Cause) (s : State) :
    (s.fail P .cmp c).cmp.nidx = s.cmp.nidx := rfl
@[simp] theorem fail_cmp_cmp_acc (P : Config.Params) (c : Cause) (s : State) : (s.fail P .cmp c).cmp.acc = s.cmp.acc := rfl
@[simp] theorem fail_cmp_cmp_nacc (P : Config.Params) (c : Cause) (s : State) :
    (s.fail P .cmp c).cmp.nacc = s.cmp.nacc := rfl
@[simp] theorem fail_cmp_cmp_outPos (P : Config.Params) (c : Cause) (s : State) :
    (s.fail P .cmp c).cmp.outPos = s.cmp.outPos := rfl
@[simp] theorem fail_cmp_cmp_cwv (P : Config.Params) (c : Cause) (s : State) : (s.fail P .cmp c).cmp.cwv = s.cmp.cwv := rfl
@[simp] theorem fail_cmp_cmp_cwb (P : Config.Params) (c : Cause) (s : State) : (s.fail P .cmp c).cmp.cwb = s.cmp.cwb := rfl
@[simp] theorem fail_cmp_cmp_htab (P : Config.Params) (c : Cause) (s : State) :
    (s.fail P .cmp c).cmp.htab = s.cmp.htab := rfl
@[simp] theorem fail_cmp_cmp_idx (P : Config.Params) (c : Cause) (s : State) : (s.fail P .cmp c).cmp.idx = s.cmp.idx := rfl
@[simp] theorem fail_cmp_cmp_work (P : Config.Params) (c : Cause) (s : State) :
    (s.fail P .cmp c).cmp.work = s.cmp.work := rfl
@[simp] theorem fail_cmp_cmp_outb (P : Config.Params) (c : Cause) (s : State) :
    (s.fail P .cmp c).cmp.outb = s.cmp.outb := rfl
@[simp] theorem fail_cmp_dec (P : Config.Params) (c : Cause) (s : State) : (s.fail P .cmp c).dec = s.dec := rfl
@[simp] theorem fail_cmp_hostIn (P : Config.Params) (c : Cause) (s : State) : (s.fail P .cmp c).hostIn = s.hostIn := rfl
@[simp] theorem fail_cmp_hostOut (P : Config.Params) (c : Cause) (s : State) :
    (s.fail P .cmp c).hostOut = overlay (Config.failHostOut s.freeCount) s.tc.outLimit s.hostOut := rfl
@[simp] theorem fail_cmp_xfers (P : Config.Params) (c : Cause) (s : State) : (s.fail P .cmp c).xfers = s.xfers := rfl
@[simp] theorem fail_cmp_freeCount (P : Config.Params) (c : Cause) (s : State) :
    (s.fail P .cmp c).freeCount = s.freeCount + 1 := rfl

/-! ### fail_dec -/

@[simp] theorem fail_dec_cr_cmd (P : Config.Params) (c : Cause) (s : State) : (s.fail P .dec c).cr.cmd = 0 := rfl
@[simp] theorem fail_dec_cr_wsizeCfg (P : Config.Params) (c : Cause) (s : State) :
    (s.fail P .dec c).cr.wsizeCfg = s.cr.wsizeCfg := rfl
@[simp] theorem fail_dec_cr_argInLen (P : Config.Params) (c : Cause) (s : State) :
    (s.fail P .dec c).cr.argInLen = s.cr.argInLen := rfl
@[simp] theorem fail_dec_cr_argOutCap (P : Config.Params) (c : Cause) (s : State) :
    (s.fail P .dec c).cr.argOutCap = lowbits (Config.failOutCap s.freeCount) P.addrW := rfl
@[simp] theorem fail_dec_cr_status (P : Config.Params) (c : Cause) (s : State) :
    (s.fail P .dec c).cr.status = statusFail (causeKind c) c := rfl
@[simp] theorem fail_dec_tc (P : Config.Params) (c : Cause) (s : State) : (s.fail P .dec c).tc = s.tc := rfl
@[simp] theorem fail_dec_hdr (P : Config.Params) (c : Cause) (s : State) : (s.fail P .dec c).hdr = s.hdr := rfl
@[simp] theorem fail_dec_cmp (P : Config.Params) (c : Cause) (s : State) : (s.fail P .dec c).cmp = s.cmp := rfl
@[simp] theorem fail_dec_dec_dstate (P : Config.Params) (c : Cause) (s : State) : (s.fail P .dec c).dec.dstate = .fail := rfl
@[simp] theorem fail_dec_dec_bitbuf (P : Config.Params) (c : Cause) (s : State) :
    (s.fail P .dec c).dec.bitbuf = s.dec.bitbuf := rfl
@[simp] theorem fail_dec_dec_nbits (P : Config.Params) (c : Cause) (s : State) :
    (s.fail P .dec c).dec.nbits = s.dec.nbits := rfl
@[simp] theorem fail_dec_dec_inPos (P : Config.Params) (c : Cause) (s : State) :
    (s.fail P .dec c).dec.inPos = s.dec.inPos := rfl
@[simp] theorem fail_dec_dec_inFill (P : Config.Params) (c : Cause) (s : State) :
    (s.fail P .dec c).dec.inFill = s.dec.inFill := rfl
@[simp] theorem fail_dec_dec_inEof (P : Config.Params) (c : Cause) (s : State) :
    (s.fail P .dec c).dec.inEof = s.dec.inEof := rfl
@[simp] theorem fail_dec_dec_wpos (P : Config.Params) (c : Cause) (s : State) :
    (s.fail P .dec c).dec.wpos = s.dec.wpos := rfl
@[simp] theorem fail_dec_dec_hist (P : Config.Params) (c : Cause) (s : State) :
    (s.fail P .dec c).dec.hist = s.dec.hist := rfl
@[simp] theorem fail_dec_dec_tLen (P : Config.Params) (c : Cause) (s : State) :
    (s.fail P .dec c).dec.tLen = s.dec.tLen := rfl
@[simp] theorem fail_dec_dec_tOff (P : Config.Params) (c : Cause) (s : State) :
    (s.fail P .dec c).dec.tOff = s.dec.tOff := rfl
@[simp] theorem fail_dec_dec_src (P : Config.Params) (c : Cause) (s : State) : (s.fail P .dec c).dec.src = s.dec.src := rfl
@[simp] theorem fail_dec_dec_lenj (P : Config.Params) (c : Cause) (s : State) :
    (s.fail P .dec c).dec.lenj = s.dec.lenj := rfl
@[simp] theorem fail_dec_dec_distj (P : Config.Params) (c : Cause) (s : State) :
    (s.fail P .dec c).dec.distj = s.dec.distj := rfl
@[simp] theorem fail_dec_dec_inb (P : Config.Params) (c : Cause) (s : State) : (s.fail P .dec c).dec.inb = s.dec.inb := rfl
@[simp] theorem fail_dec_dec_win (P : Config.Params) (c : Cause) (s : State) : (s.fail P .dec c).dec.win = s.dec.win := rfl
@[simp] theorem fail_dec_dec_hdrByte0 (P : Config.Params) (c : Cause) (s : State) :
    (s.fail P .dec c).dec.hdrByte0 = s.dec.hdrByte0 := rfl
@[simp] theorem fail_dec_dec_offNext (P : Config.Params) (c : Cause) (s : State) :
    (s.fail P .dec c).dec.offNext = s.dec.offNext := rfl
@[simp] theorem fail_dec_hostIn (P : Config.Params) (c : Cause) (s : State) : (s.fail P .dec c).hostIn = s.hostIn := rfl
@[simp] theorem fail_dec_hostOut (P : Config.Params) (c : Cause) (s : State) :
    (s.fail P .dec c).hostOut = overlay (Config.failHostOut s.freeCount) s.tc.outLimit s.hostOut := rfl
@[simp] theorem fail_dec_xfers (P : Config.Params) (c : Cause) (s : State) : (s.fail P .dec c).xfers = s.xfers := rfl
@[simp] theorem fail_dec_freeCount (P : Config.Params) (c : Cause) (s : State) :
    (s.fail P .dec c).freeCount = s.freeCount + 1 := rfl

/-! ### initCmp -/

@[simp] theorem initCmp_cr (s : State) : (initCmp s).cr = s.cr := rfl
@[simp] theorem initCmp_tc (s : State) : (initCmp s).tc = s.tc := rfl
@[simp] theorem initCmp_hdr_litmode (s : State) : (initCmp s).hdr.litmode = 0 := rfl
@[simp] theorem initCmp_hdr_wsize (s : State) : (initCmp s).hdr.wsize = s.cr.wsizeCfg := rfl
@[simp] theorem initCmp_cmp_cstate (s : State) : (initCmp s).cmp.cstate = s.cmp.cstate := rfl
@[simp] theorem initCmp_cmp_cur (s : State) : (initCmp s).cmp.cur = 64 * 2 ^ s.cr.wsizeCfg.toNat + 516 := rfl
@[simp] theorem initCmp_cmp_nload (s : State) : (initCmp s).cmp.nload = 0 := rfl
@[simp] theorem initCmp_cmp_loadEnd (s : State) : (initCmp s).cmp.loadEnd = 64 * 2 ^ s.cr.wsizeCfg.toNat + 516 := rfl
@[simp] theorem initCmp_cmp_scanEnd (s : State) : (initCmp s).cmp.scanEnd = 64 * 2 ^ s.cr.wsizeCfg.toNat := rfl
@[simp] theorem initCmp_cmp_ended (s : State) : (initCmp s).cmp.ended = false := rfl
@[simp] theorem initCmp_cmp_round (s : State) : (initCmp s).cmp.round = 0 := rfl
@[simp] theorem initCmp_cmp_mLen (s : State) : (initCmp s).cmp.mLen = 0 := rfl
@[simp] theorem initCmp_cmp_mOff (s : State) : (initCmp s).cmp.mOff = 0 := rfl
@[simp] theorem initCmp_cmp_nLen (s : State) : (initCmp s).cmp.nLen = 0 := rfl
@[simp] theorem initCmp_cmp_nOff (s : State) : (initCmp s).cmp.nOff = 0 := rfl
@[simp] theorem initCmp_cmp_nidx (s : State) : (initCmp s).cmp.nidx = 0 := rfl
@[simp] theorem initCmp_cmp_acc (s : State) : (initCmp s).cmp.acc = 0 := rfl
@[simp] theorem initCmp_cmp_nacc (s : State) : (initCmp s).cmp.nacc = 0 := rfl
@[simp] theorem initCmp_cmp_outPos (s : State) : (initCmp s).cmp.outPos = 0 := rfl
@[simp] theorem initCmp_cmp_cwv (s : State) : (initCmp s).cmp.cwv = s.cmp.cwv := rfl
@[simp] theorem initCmp_cmp_cwb (s : State) : (initCmp s).cmp.cwb = s.cmp.cwb := rfl
@[simp] theorem initCmp_cmp_htab (s : State) : (initCmp s).cmp.htab = s.cmp.htab := rfl
@[simp] theorem initCmp_cmp_idx (s : State) : (initCmp s).cmp.idx = s.cmp.idx := rfl
@[simp] theorem initCmp_cmp_work (s : State) : (initCmp s).cmp.work = s.cmp.work := rfl
@[simp] theorem initCmp_cmp_outb (s : State) : (initCmp s).cmp.outb = s.cmp.outb := rfl
@[simp] theorem initCmp_dec (s : State) : (initCmp s).dec = s.dec := rfl
@[simp] theorem initCmp_hostIn (s : State) : (initCmp s).hostIn = s.hostIn := rfl
@[simp] theorem initCmp_hostOut (s : State) : (initCmp s).hostOut = s.hostOut := rfl
@[simp] theorem initCmp_xfers (s : State) : (initCmp s).xfers = s.xfers := rfl
@[simp] theorem initCmp_freeCount (s : State) : (initCmp s).freeCount = s.freeCount := rfl

/-! ### initDec -/

@[simp] theorem initDec_cr (s : State) : (initDec s).cr = s.cr := rfl
@[simp] theorem initDec_tc (s : State) : (initDec s).tc = s.tc := rfl
@[simp] theorem initDec_hdr_litmode (s : State) : (initDec s).hdr.litmode = 0 := rfl
@[simp] theorem initDec_hdr_wsize (s : State) : (initDec s).hdr.wsize = 0 := rfl
@[simp] theorem initDec_cmp (s : State) : (initDec s).cmp = s.cmp := rfl
@[simp] theorem initDec_dec_dstate (s : State) : (initDec s).dec.dstate = .header := rfl
@[simp] theorem initDec_dec_bitbuf (s : State) : (initDec s).dec.bitbuf = 0 := rfl
@[simp] theorem initDec_dec_nbits (s : State) : (initDec s).dec.nbits = 0 := rfl
@[simp] theorem initDec_dec_inPos (s : State) : (initDec s).dec.inPos = 0 := rfl
@[simp] theorem initDec_dec_inFill (s : State) : (initDec s).dec.inFill = 0 := rfl
@[simp] theorem initDec_dec_inEof (s : State) : (initDec s).dec.inEof = false := rfl
@[simp] theorem initDec_dec_wpos (s : State) : (initDec s).dec.wpos = Config.decHist := rfl
@[simp] theorem initDec_dec_hist (s : State) : (initDec s).dec.hist = 0 := rfl
@[simp] theorem initDec_dec_tLen (s : State) : (initDec s).dec.tLen = 0 := rfl
@[simp] theorem initDec_dec_tOff (s : State) : (initDec s).dec.tOff = 0 := rfl
@[simp] theorem initDec_dec_src (s : State) : (initDec s).dec.src = 0 := rfl
@[simp] theorem initDec_dec_lenj (s : State) : (initDec s).dec.lenj = s.dec.lenj := rfl
@[simp] theorem initDec_dec_distj (s : State) : (initDec s).dec.distj = s.dec.distj := rfl
@[simp] theorem initDec_dec_inb (s : State) : (initDec s).dec.inb = s.dec.inb := rfl
@[simp] theorem initDec_dec_win (s : State) : (initDec s).dec.win = s.dec.win := rfl
@[simp] theorem initDec_dec_hdrByte0 (s : State) : (initDec s).dec.hdrByte0 = none := rfl
@[simp] theorem initDec_dec_offNext (s : State) : (initDec s).dec.offNext = false := rfl
@[simp] theorem initDec_hostIn (s : State) : (initDec s).hostIn = s.hostIn := rfl
@[simp] theorem initDec_hostOut (s : State) : (initDec s).hostOut = s.hostOut := rfl
@[simp] theorem initDec_xfers (s : State) : (initDec s).xfers = s.xfers := rfl
@[simp] theorem initDec_freeCount (s : State) : (initDec s).freeCount = s.freeCount := rfl

end Sys2Proof.Machine
end

