-- ==== Sys2Proof/Laws/Ops.lean ====
section
/-! SUPPORT. One lemma per shared operation that says everything it can answer, for the proofs to cite instead of unfolding
it: results, PUSH and PULL, the words of `STATUS`, the write side, the read side, CHOOSE, the commands
and the host port, and which of the three agents a step belongs to. -/

namespace Sys2Proof.Machine

/-! ### Results -/

@[simp] theorem Res.bind_ok {α β : Type} (v : α) (s : State) (f : α → State → Res β) : (Res.ok v s).bind f = f v s := rfl

@[simp] theorem Res.bind_stop {α β : Type} (o : Host.Outcome State Fault Refusal) (f : α → State → Res β) :
    (Res.stop o : Res α).bind f = .stop o := rfl

@[simp] theorem Res.bind_fault {α β : Type} (e : Fault) (f : α → State → Res β) :
    (Res.fault e : Res α).bind f = .fault e := rfl

@[simp] theorem Res.bind_refuse {α β : Type} (e : Refusal) (f : α → State → Res β) :
    (Res.refuse e : Res α).bind f = .refuse e := rfl

@[simp] theorem bind_raise {α β : Type} (P : Config.Params) (e : Engine) (c : Cause) (s : State) (f : α → State → Res β) :
    (raise P e c s : Res α).bind f = raise P e c s := rfl

theorem Res.bind_eq_ok {α β : Type} {r : Res α} {f : α → State → Res β} {v : β} {t : State} :
    r.bind f = .ok v t ↔ ∃ a s, r = .ok a s ∧ f a s = .ok v t := by
  cases r <;> simp

theorem Res.bind_eq_stop {α β : Type} {r : Res α} {f : α → State → Res β} {o : Host.Outcome State Fault Refusal} :
    r.bind f = .stop o ↔ r = .stop o ∨ ∃ a s, r = .ok a s ∧ f a s = .stop o := by
  cases r <;> simp

@[simp] theorem Res.outcome_ok (v : Unit) (s : State) : (Res.ok v s).outcome = .next s := rfl

@[simp] theorem Res.outcome_stop (o : Host.Outcome State Fault Refusal) : (Res.stop o : Res Unit).outcome = o := rfl

@[simp] theorem outcome_raise (P : Config.Params) (e : Engine) (c : Cause) (s : State) :
    (raise P e c s : Res Unit).outcome = .next (s.fail P e c) := rfl

theorem Res.outcome_eq_next {r : Res Unit} {t : State} : r.outcome = .next t ↔ r = .ok () t ∨ r = .stop (.next t) := by
  cases r <;> simp [Res.outcome]

/-! ### STATUS -/

@[simp] theorem statusBusy_start : statusBusy statusStart = true := by decide
@[simp] theorem statusSuccess_start : statusSuccess statusStart = false := by decide
@[simp] theorem statusBusy_ok : statusBusy statusOk = false := by decide
@[simp] theorem statusDone_ok : statusDone statusOk = true := by decide
@[simp] theorem statusSuccess_ok : statusSuccess statusOk = true := by decide
@[simp] theorem statusBusy_fail (k : ErrKind) (c : Cause) : statusBusy (statusFail k c) = false := by
  cases k <;> cases c <;> decide
@[simp] theorem statusDone_fail (k : ErrKind) (c : Cause) : statusDone (statusFail k c) = true := by
  cases k <;> cases c <;> decide
@[simp] theorem statusSuccess_fail (k : ErrKind) (c : Cause) : statusSuccess (statusFail k c) = false := by
  cases k <;> cases c <;> decide

/-! ### PUSH and PULL -/

/-- PUSH does nothing once `STOP` is set; else it leaves its memory (a fault), or does not fit, or appends the chunk. -/
theorem push_cases (m : Memory) (size : Nat) (f : Fault) (a n : Nat) (s : State) :
    (s.tc.stop = true ∧ push m size f a n s = .ok () s) ∨
    (s.tc.stop = false ∧ size < a + n ∧ push m size f a n s = .fault f) ∨
    (s.tc.stop = false ∧ a + n ≤ size ∧ s.tc.outLimit < s.tc.outCur + n ∧
      push m size f a n s = .ok () { s with tc := { s.tc with stop := true } }) ∨
    (s.tc.stop = false ∧ a + n ≤ size ∧ s.tc.outCur + n ≤ s.tc.outLimit ∧
      push m size f a n s = .ok () { s with
        tc := { s.tc with outCur := s.tc.outCur + n }
        hostOut := copyCells m a s.hostOut s.tc.outCur n
        xfers := .push n :: s.xfers }) := by
  unfold push
  cases h : s.tc.stop
  · right
    rw [if_neg (by simp)]
    by_cases h1 : size < a + n
    · exact .inl ⟨rfl, h1, if_pos h1⟩
    · rw [if_neg h1]
      right
      by_cases h2 : s.tc.outLimit < s.tc.outCur + n
      · exact .inl ⟨rfl, by omega, h2, if_pos h2⟩
      · exact .inr ⟨rfl, by omega, by omega, by rw [if_neg h2]⟩
  · exact .inl ⟨rfl, if_pos rfl⟩

/-- PULL changes the input cursor and the log of transfers, nothing else of the state. -/
theorem pull_state (m : Memory) (a max : Nat) (s : State) :
    (pull m a max s).2 =
      { s with tc := { s.tc with inCur := s.tc.inCur + pullCount s max }, xfers := .pull (pullCount s max) :: s.xfers } := rfl

/-- What PULL leaves in its memory: the next input bytes from `a` on, every other cell as before. -/
theorem pull_read {m : Memory} (w : m.wf = true) (a max : Nat) (s : State) :
    (pull m a max s).1.wf = true ∧ ∀ x, (pull m a max s).1.read x =
      if a ≤ x ∧ x < a + pullCount s max then s.hostIn.read (s.tc.inCur + (x - a)) else m.read x :=
  copyCells_spec s.hostIn _ _ m a w

theorem pullCount_le (s : State) (max : Nat) : pullCount s max ≤ max ∧ pullCount s max ≤ s.tc.inLen - s.tc.inCur :=
  ⟨Nat.min_le_left _ _, Nat.min_le_right _ _⟩

/-! ### The write side -/

/-- STORE_BYTE does nothing once `STOP` is set; else the byte is stored, and the 2048th one is followed by FLUSH_OUTB. -/
theorem storeByte_cases (b : Byte) (s : State) :
    (s.tc.stop = true ∧ storeByte b s = .ok () s) ∨
    (s.tc.stop = false ∧ 2048 ≤ s.cmp.outPos ∧ storeByte b s = .fault .outbRange) ∨
    (s.tc.stop = false ∧ s.cmp.outPos < 2047 ∧ storeByte b s = .ok () { s with
      cmp := { s.cmp with outb := s.cmp.outb.write s.cmp.outPos b, outPos := s.cmp.outPos + 1 } }) ∨
    (s.tc.stop = false ∧ s.cmp.outPos = 2047 ∧ storeByte b s = flushOutb { s with
      cmp := { s.cmp with outb := s.cmp.outb.write s.cmp.outPos b, outPos := s.cmp.outPos + 1 } }) := by
  unfold storeByte
  cases h : s.tc.stop
  · right
    rw [if_neg (by simp)]
    by_cases h1 : 2048 ≤ s.cmp.outPos
    · exact .inl ⟨rfl, h1, if_pos h1⟩
    · right
      rw [if_neg h1]
      by_cases h2 : s.cmp.outPos = 2047
      · exact .inr ⟨rfl, h2, if_pos (by simp only [h2])⟩
      · exact .inl ⟨rfl, by omega, if_neg (fun h3 => h2 (Nat.succ.inj h3))⟩
  · simp

/-- FLUSH_OUTB: `OUT_POS` is 0 after it, whatever PUSH did. -/
theorem flushOutb_cases (s : State) :
    (s.tc.stop = true ∧ flushOutb s = .ok () { s with cmp := { s.cmp with outPos := 0 } }) ∨
    (s.tc.stop = false ∧ s.tc.outLimit < s.tc.outCur + Config.outbSize ∧
      flushOutb s = .ok () { s with tc := { s.tc with stop := true }, cmp := { s.cmp with outPos := 0 } }) ∨
    (s.tc.stop = false ∧ s.tc.outCur + Config.outbSize ≤ s.tc.outLimit ∧ flushOutb s = .ok () { s with
      tc := { s.tc with outCur := s.tc.outCur + Config.outbSize }
      cmp := { s.cmp with outPos := 0 }
      hostOut := copyCells s.cmp.outb 0 s.hostOut s.tc.outCur Config.outbSize
      xfers := .push Config.outbSize :: s.xfers }) := by
  unfold flushOutb
  rcases push_cases s.cmp.outb Config.outbSize .outbRange 0 Config.outbSize s with h | h | h | h
  · exact .inl ⟨h.1, by rw [h.2]; simp only [Res.bind_ok]⟩
  · exact absurd h.2.1 (by omega)
  · exact .inr (.inl ⟨h.1, h.2.2.1, by rw [h.2.2.2]; simp only [Res.bind_ok]⟩)
  · exact .inr (.inr ⟨h.1, h.2.2.1, by rw [h.2.2.2]; simp only [Res.bind_ok]⟩)

theorem writeBits_stopped {s : State} (h : s.tc.stop = true) (n v : Nat) : writeBits n v s = .ok () s := by
  simp [writeBits, h]

theorem writeBits_running {s : State} (h : s.tc.stop = false) {n : Nat} (h1 : 1 ≤ n) (h2 : n ≤ 16) (v : Nat) :
    writeBits n v s = writeLoop n n (lowbits v n) s := by
  unfold writeBits
  rw [if_neg (by simp [h]), if_neg (by omega)]

theorem finish_stopped {s : State} (h : s.tc.stop = true) : finish s = .ok () s := by simp [finish, h]

/-! ### The read side -/

/-- NEXT_BYTE: the input has ended, or a byte of `INB` is taken, or a pull refills `INB` first. -/
theorem nextByte_cases (s : State) :
    (s.dec.inPos ≠ s.dec.inFill ∧ nextByte s = takeInb s) ∨
    (s.dec.inPos = s.dec.inFill ∧ s.dec.inEof = true ∧ nextByte s = .ok none s) ∨
    (s.dec.inPos = s.dec.inFill ∧ s.dec.inEof = false ∧ pullCount s 2048 = 0 ∧
      nextByte s = .ok none { refill s with dec := { (refill s).dec with inEof := true } }) ∨
    (s.dec.inPos = s.dec.inFill ∧ s.dec.inEof = false ∧ pullCount s 2048 ≠ 0 ∧ nextByte s = takeInb (refill s)) := by
  unfold nextByte
  by_cases h : s.dec.inPos = s.dec.inFill
  · right
    rw [if_pos h]
    cases he : s.dec.inEof
    · right
      rw [if_neg (by simp)]
      by_cases hp : pullCount s 2048 = 0
      · exact .inl ⟨h, rfl, hp, if_pos hp⟩
      · exact .inr ⟨h, rfl, hp, if_neg hp⟩
    · exact .inl ⟨h, rfl, rfl⟩
  · exact .inl ⟨h, if_neg h⟩

/-- PEEK answers only after FILL, with the low bits of `BITBUF`. -/
theorem peek_eq_ok {k v : Nat} {s t : State} :
    peek k s = .ok v t ↔ 1 ≤ k ∧ k ≤ 8 ∧ fill s = .ok () t ∧ v = lowbits t.dec.bitbuf.toNat k := by
  unfold peek
  by_cases h : k = 0 ∨ 8 < k
  · rw [if_pos h]
    constructor
    · intro h'; simp [Res.refuse] at h'
    · intro h'; omega
  · rw [if_neg h, Res.bind_eq_ok]
    constructor
    · rintro ⟨_, u, hf, he⟩
      simp only [Res.ok.injEq] at he
      obtain ⟨rfl, rfl⟩ := he
      exact ⟨by omega, by omega, hf, rfl⟩
    · rintro ⟨_, _, hf, rfl⟩
      exact ⟨(), t, hf, rfl⟩

/-- CONSUME goes on only after FILL, with the bits there. -/
theorem consume_eq_ok {P : Config.Params} {k : Nat} {s t : State} :
    consume P k s = .ok () t ↔ 1 ≤ k ∧ k ≤ 8 ∧ ∃ u, fill s = .ok () u ∧ k ≤ u.dec.nbits ∧
      t = { u with dec := { u.dec with bitbuf := u.dec.bitbuf >>> k, nbits := u.dec.nbits - k } } := by
  unfold consume
  by_cases h : k = 0 ∨ 8 < k
  · rw [if_pos h]
    constructor
    · intro h'; simp [Res.refuse] at h'
    · intro h'; omega
  · rw [if_neg h, Res.bind_eq_ok]
    constructor
    · rintro ⟨_, u, hf, he⟩
      by_cases hk : u.dec.nbits < k
      · rw [if_pos hk] at he; simp [raise] at he
      · rw [if_neg hk] at he
        simp only [Res.ok.injEq, true_and] at he
        exact ⟨by omega, by omega, u, hf, by omega, he.symm⟩
    · rintro ⟨_, _, u, hf, hk, rfl⟩
      exact ⟨(), u, hf, by rw [if_neg (by omega)]⟩

/-- READ is PEEK and then CONSUME. -/
theorem readBits_eq_ok {P : Config.Params} {k v : Nat} {s u : State} :
    readBits P k s = .ok v u ↔ ∃ t, peek k s = .ok v t ∧ consume P k t = .ok () u := by
  unfold readBits
  rw [Res.bind_eq_ok]
  constructor
  · rintro ⟨a, t, hp, hc⟩
    obtain ⟨_, w, hw, he⟩ := Res.bind_eq_ok.1 hc
    simp only [Res.ok.injEq] at he
    obtain ⟨rfl, rfl⟩ := he
    exact ⟨t, hp, hw⟩
  · rintro ⟨t, hp, hc⟩
    exact ⟨v, t, hp, by rw [hc]; rfl⟩

/-! ### CHOOSE -/

/-- CHOOSE writes the match registers and nothing else; it decides on the literal at the cursor or on the match found there. -/
theorem choose_eq_ok {P : Config.Params} {s t : State} {c : Token × Nat} (h : choose P s = .ok c t) :
    s.cmp.loadEnd ≤ s.workSize ∧ s.cmp.cur < s.cmp.loadEnd ∧ ∃ m, findMatch s.cmp.cur s = .ok m ∧
      ((m.1 < 2 ∧ t = setMatch m s ∧ c = s.litAtCur) ∨
       (2 ≤ m.1 ∧ ∃ n, findMatch (s.cmp.cur + 1) (setMatch m s) = .ok n ∧ t = setNextMatch n (setMatch m s) ∧
         c = if P.lazyDefer m.1 m.2 n.1 n.2 then s.litAtCur else (.copy m.1 m.2, m.1))) := by
  unfold choose at h
  split_ifs at h with h0
  · simp [Res.fault] at h
  · obtain ⟨m, u, hm, h⟩ := Res.bind_eq_ok.1 h
    refine ⟨by omega, by omega, m, ?_⟩
    cases hf : findMatch s.cmp.cur s with
    | error e => simp [hf, orFault, Res.fault] at hm
    | ok m' =>
      simp only [hf, orFault, Res.ok.injEq] at hm
      obtain ⟨rfl, rfl⟩ := hm
      refine ⟨rfl, ?_⟩
      split_ifs at h with h2
      · right
        obtain ⟨n, w, hn, h⟩ := Res.bind_eq_ok.1 h
        have hn : orFault (findMatch (s.cmp.cur + 1) (setMatch m' s)) (setMatch m' s) = .ok n w := hn
        cases hg : findMatch (s.cmp.cur + 1) (setMatch m' s) with
        | error e => simp [hg, orFault, Res.fault] at hn
        | ok n' =>
          simp only [hg, orFault, Res.ok.injEq] at hn
          obtain ⟨rfl, rfl⟩ := hn
          refine ⟨h2, n', rfl, ?_⟩
          split_ifs at h ⊢ with h3
          · simp only [Res.ok.injEq] at h; exact ⟨h.2.symm, h.1.symm⟩
          · simp only [Res.ok.injEq] at h; exact ⟨h.2.symm, h.1.symm⟩
      · left
        simp only [Res.ok.injEq] at h
        exact ⟨by omega, h.2.symm, h.1.symm⟩

/-! ### Commands and the host port -/

theorem accepts_iff {s : State} : s.accepts = true ↔ s.busy = false ∧ s.cr.cmd = 0 := by simp [State.accepts]

/-- A host write either is made, between commands, or is refused. -/
theorem hostWrite_eq_next {s t u : State} : hostWrite s t = .next u ↔ s.accepts = true ∧ t = u := by
  unfold hostWrite
  cases s.accepts <;> simp

/-- COMPRESS is refused while a command runs or under ill-formed parameters; else it starts, or takes BAD_WSIZE_CFG. -/
theorem runCompress_cases (P : Config.Params) (s : State) :
    (s.busy = true ∧ runCompress P s = .refused .hostWhileBusy) ∨
    (s.busy = false ∧ P.wf = false ∧ runCompress P s = .refused .illFormedParameters) ∨
    (s.busy = false ∧ P.wf = true ∧ legalWsize s.cr.wsizeCfg = true ∧
      runCompress P s = (compressStart P.tables (s.startCommand 1)).outcome) ∨
    (s.busy = false ∧ P.wf = true ∧ legalWsize s.cr.wsizeCfg = false ∧
      runCompress P s = .next ((s.startCommand 1).fail P .cmp .badWsizeCfg)) := by
  unfold runCompress
  cases s.busy <;> cases P.wf <;> cases h : legalWsize s.cr.wsizeCfg <;> simp [h]

/-- DECOMPRESS is refused as COMPRESS is, and else starts. -/
theorem runDecompress_cases (P : Config.Params) (s : State) :
    (s.busy = true ∧ runDecompress P s = .refused .hostWhileBusy) ∨
    (s.busy = false ∧ P.wf = false ∧ runDecompress P s = .refused .illFormedParameters) ∨
    (s.busy = false ∧ P.wf = true ∧ runDecompress P s = .next (initDec (s.startCommand 2))) := by
  unfold runDecompress
  cases s.busy <;> cases P.wf <;> simp

/-! ### Whose step it is -/

theorem step_idle {s : State} (h : s.busy = false) :
    step s = match idleFetch s with
      | .instr i t => exec i t
      | .done o => o := by
  unfold step fetch; rw [if_neg (by simp [h])] <;> rfl

theorem step_cmp {s : State} (h : s.running .cmp) : step s = (cmpStep standard s).outcome := by
  obtain ⟨h1, h2⟩ := h
  have h2 : s.cr.cmd = 1 := h2
  unfold step fetch; rw [if_pos h1, h2] <;> rfl

theorem step_dec {s : State} (h : s.running .dec) :
    step s = match decFetch standard s with
      | .instr i t => exec i t
      | .done o => o := by
  obtain ⟨h1, h2⟩ := h
  have h2 : s.cr.cmd = 2 := h2
  unfold step fetch; rw [if_pos h1, h2] <;> rfl

end Sys2Proof.Machine
end

