-- ==== Sys2Proof/Laws/PerInstr.lean ====
section
/-! SUPPORT. Facts of every instruction as syntax, one lemma per constructor: its encoding has the width and the fixed bits its
row of spec/opcode_table.json gives (30_encoding.md R113, R119), with the codes the table is written with (log 2). -/

namespace Sys2Proof.Laws.EncodedWidth

/-- The row of an instruction in the opcode table: its width in bits, how many low bits are fixed, and their value. -/
def row (i : Instr) : Nat × Nat × Nat :=
  match i with
  | .lit _ => (9, 1, 0x0)
  | .len0 _ => (4, 4, 0xB)
  | .len1 _ => (3, 3, 0x7)
  | .len2 _ => (4, 4, 0x3)
  | .len3 _ => (4, 4, 0xD)
  | .len4 _ => (5, 5, 0x15)
  | .len5 _ => (5, 5, 0x5)
  | .len6 _ => (5, 5, 0x19)
  | .len7 _ => (6, 6, 0x29)
  | .len8 _ => (7, 6, 0x9)
  | .len9 _ => (8, 6, 0x31)
  | .len10 _ => (9, 6, 0x11)
  | .len11 _ => (11, 7, 0x61)
  | .len12 _ => (12, 7, 0x21)
  | .len13 _ => (13, 7, 0x41)
  | .len14 _ => (15, 8, 0x81)
  | .len15 _ => (16, 8, 0x1)
  | .endOfStream => (16, 16, 0xFF01)
  | .dist0 low => (2 + low.width, 2, 0x3)
  | .dist1 low => (4 + low.width, 4, 0xD)
  | .dist2 low => (4 + low.width, 4, 0x5)
  | .dist3 low => (5 + low.width, 5, 0x19)
  | .dist4 low => (5 + low.width, 5, 0x9)
  | .dist5 low => (5 + low.width, 5, 0x11)
  | .dist6 low => (5 + low.width, 5, 0x1)
  | .dist7 low => (6 + low.width, 6, 0x3E)
  | .dist8 low => (6 + low.width, 6, 0x1E)
  | .dist9 low => (6 + low.width, 6, 0x2E)
  | .dist10 low => (6 + low.width, 6, 0xE)
  | .dist11 low => (6 + low.width, 6, 0x36)
  | .dist12 low => (6 + low.width, 6, 0x16)
  | .dist13 low => (6 + low.width, 6, 0x26)
  | .dist14 low => (6 + low.width, 6, 0x6)
  | .dist15 low => (6 + low.width, 6, 0x3A)
  | .dist16 low => (6 + low.width, 6, 0x1A)
  | .dist17 low => (6 + low.width, 6, 0x2A)
  | .dist18 low => (6 + low.width, 6, 0xA)
  | .dist19 low => (6 + low.width, 6, 0x32)
  | .dist20 low => (6 + low.width, 6, 0x12)
  | .dist21 low => (6 + low.width, 6, 0x22)
  | .dist22 low => (7 + low.width, 7, 0x42)
  | .dist23 low => (7 + low.width, 7, 0x2)
  | .dist24 low => (7 + low.width, 7, 0x7C)
  | .dist25 low => (7 + low.width, 7, 0x3C)
  | .dist26 low => (7 + low.width, 7, 0x5C)
  | .dist27 low => (7 + low.width, 7, 0x1C)
  | .dist28 low => (7 + low.width, 7, 0x6C)
  | .dist29 low => (7 + low.width, 7, 0x2C)
  | .dist30 low => (7 + low.width, 7, 0x4C)
  | .dist31 low => (7 + low.width, 7, 0xC)
  | .dist32 low => (7 + low.width, 7, 0x74)
  | .dist33 low => (7 + low.width, 7, 0x34)
  | .dist34 low => (7 + low.width, 7, 0x54)
  | .dist35 low => (7 + low.width, 7, 0x14)
  | .dist36 low => (7 + low.width, 7, 0x64)
  | .dist37 low => (7 + low.width, 7, 0x24)
  | .dist38 low => (7 + low.width, 7, 0x44)
  | .dist39 low => (7 + low.width, 7, 0x4)
  | .dist40 low => (7 + low.width, 7, 0x78)
  | .dist41 low => (7 + low.width, 7, 0x38)
  | .dist42 low => (7 + low.width, 7, 0x58)
  | .dist43 low => (7 + low.width, 7, 0x18)
  | .dist44 low => (7 + low.width, 7, 0x68)
  | .dist45 low => (7 + low.width, 7, 0x28)
  | .dist46 low => (7 + low.width, 7, 0x48)
  | .dist47 low => (7 + low.width, 7, 0x8)
  | .dist48 low => (8 + low.width, 8, 0xF0)
  | .dist49 low => (8 + low.width, 8, 0x70)
  | .dist50 low => (8 + low.width, 8, 0xB0)
  | .dist51 low => (8 + low.width, 8, 0x30)
  | .dist52 low => (8 + low.width, 8, 0xD0)
  | .dist53 low => (8 + low.width, 8, 0x50)
  | .dist54 low => (8 + low.width, 8, 0x90)
  | .dist55 low => (8 + low.width, 8, 0x10)
  | .dist56 low => (8 + low.width, 8, 0xE0)
  | .dist57 low => (8 + low.width, 8, 0x60)
  | .dist58 low => (8 + low.width, 8, 0xA0)
  | .dist59 low => (8 + low.width, 8, 0x20)
  | .dist60 low => (8 + low.width, 8, 0xC0)
  | .dist61 low => (8 + low.width, 8, 0x40)
  | .dist62 low => (8 + low.width, 8, 0x80)
  | .dist63 low => (8 + low.width, 8, 0x0)
  | .hdr0 _ => (8, 8, 0x0)
  | .hdr1 _ => (8, 0, 0x0)
  | .compress => (2, 2, 0x1)
  | .decompress => (2, 2, 0x2)

/-- The encoding has the width and the fixed bits of the row. -/
def Statement (i : Instr) : Prop :=
  i.wf tPkware = true →
    (encode tPkware i).length = (row i).1 ∧ natOfBits ((encode tPkware i).take (row i).2.1) = (row i).2.2

/-- A class code followed by a low field: the low field adds its width and leaves the class code's bits as they are. -/
theorem offset_row (c : Nat) (low : Low) {k v : Nat}
    (h : (bitsOfNat (distBits tPkware c) (distCode tPkware c)).length = k ∧
      natOfBits (bitsOfNat (distBits tPkware c) (distCode tPkware c)) = v) {P : Prop} :
    P → (encodeOffset tPkware c low).length = k + low.width ∧ natOfBits ((encodeOffset tPkware c low).take k) = v := fun _ => by
  obtain ⟨rfl, rfl⟩ := h
  unfold encodeOffset
  rw [List.length_append, length_bitsOfNat low.width, List.take_left]
  exact ⟨rfl, rfl⟩

/-- Selector and class code followed by extra bits. -/
theorem length_row (i e : Nat) {n k v : Nat}
    (h : (true :: bitsOfNat (lenBits tPkware i) (lenCode tPkware i)).length = k ∧
      natOfBits (true :: bitsOfNat (lenBits tPkware i) (lenCode tPkware i)) = v ∧ k + lenExtra tPkware i = n) {P : Prop} :
    P → (encodeLength tPkware i e).length = n ∧ natOfBits ((encodeLength tPkware i e).take k) = v := fun _ => by
  obtain ⟨rfl, rfl, rfl⟩ := h
  unfold encodeLength
  rw [← List.cons_append, List.length_append, length_bitsOfNat (lenExtra tPkware i), List.take_left]
  exact ⟨rfl, rfl⟩

theorem lit (b : Byte) : Statement (.lit b) := fun _ => ⟨rfl, rfl⟩

theorem len0 (e : Byte) : Statement (.len0 e) := length_row 0 e.toNat (n := 4) (k := 4) (v := 0xB) (by decide)

theorem len1 (e : Byte) : Statement (.len1 e) := length_row 1 e.toNat (n := 3) (k := 3) (v := 0x7) (by decide)

theorem len2 (e : Byte) : Statement (.len2 e) := length_row 2 e.toNat (n := 4) (k := 4) (v := 0x3) (by decide)

theorem len3 (e : Byte) : Statement (.len3 e) := length_row 3 e.toNat (n := 4) (k := 4) (v := 0xD) (by decide)

theorem len4 (e : Byte) : Statement (.len4 e) := length_row 4 e.toNat (n := 5) (k := 5) (v := 0x15) (by decide)

theorem len5 (e : Byte) : Statement (.len5 e) := length_row 5 e.toNat (n := 5) (k := 5) (v := 0x5) (by decide)

theorem len6 (e : Byte) : Statement (.len6 e) := length_row 6 e.toNat (n := 5) (k := 5) (v := 0x19) (by decide)

theorem len7 (e : Byte) : Statement (.len7 e) := length_row 7 e.toNat (n := 6) (k := 6) (v := 0x29) (by decide)

theorem len8 (e : Byte) : Statement (.len8 e) := length_row 8 e.toNat (n := 7) (k := 6) (v := 0x9) (by decide)

theorem len9 (e : Byte) : Statement (.len9 e) := length_row 9 e.toNat (n := 8) (k := 6) (v := 0x31) (by decide)

theorem len10 (e : Byte) : Statement (.len10 e) := length_row 10 e.toNat (n := 9) (k := 6) (v := 0x11) (by decide)

theorem len11 (e : Byte) : Statement (.len11 e) := length_row 11 e.toNat (n := 11) (k := 7) (v := 0x61) (by decide)

theorem len12 (e : Byte) : Statement (.len12 e) := length_row 12 e.toNat (n := 12) (k := 7) (v := 0x21) (by decide)

theorem len13 (e : Byte) : Statement (.len13 e) := length_row 13 e.toNat (n := 13) (k := 7) (v := 0x41) (by decide)

theorem len14 (e : Byte) : Statement (.len14 e) := length_row 14 e.toNat (n := 15) (k := 8) (v := 0x81) (by decide)

theorem len15 (e : Byte) : Statement (.len15 e) := length_row 15 e.toNat (n := 16) (k := 8) (v := 0x1) (by decide)

theorem endOfStream : Statement .endOfStream := fun _ => ⟨rfl, rfl⟩

theorem dist0 (low : Low) : Statement (.dist0 low) := offset_row 0 low (v := 0x3) (by decide)

theorem dist1 (low : Low) : Statement (.dist1 low) := offset_row 1 low (v := 0xD) (by decide)

theorem dist2 (low : Low) : Statement (.dist2 low) := offset_row 2 low (v := 0x5) (by decide)

theorem dist3 (low : Low) : Statement (.dist3 low) := offset_row 3 low (v := 0x19) (by decide)

theorem dist4 (low : Low) : Statement (.dist4 low) := offset_row 4 low (v := 0x9) (by decide)

theorem dist5 (low : Low) : Statement (.dist5 low) := offset_row 5 low (v := 0x11) (by decide)

theorem dist6 (low : Low) : Statement (.dist6 low) := offset_row 6 low (v := 0x1) (by decide)

theorem dist7 (low : Low) : Statement (.dist7 low) := offset_row 7 low (v := 0x3E) (by decide)

theorem dist8 (low : Low) : Statement (.dist8 low) := offset_row 8 low (v := 0x1E) (by decide)

theorem dist9 (low : Low) : Statement (.dist9 low) := offset_row 9 low (v := 0x2E) (by decide)

theorem dist10 (low : Low) : Statement (.dist10 low) := offset_row 10 low (v := 0xE) (by decide)

theorem dist11 (low : Low) : Statement (.dist11 low) := offset_row 11 low (v := 0x36) (by decide)

theorem dist12 (low : Low) : Statement (.dist12 low) := offset_row 12 low (v := 0x16) (by decide)

theorem dist13 (low : Low) : Statement (.dist13 low) := offset_row 13 low (v := 0x26) (by decide)

theorem dist14 (low : Low) : Statement (.dist14 low) := offset_row 14 low (v := 0x6) (by decide)

theorem dist15 (low : Low) : Statement (.dist15 low) := offset_row 15 low (v := 0x3A) (by decide)

theorem dist16 (low : Low) : Statement (.dist16 low) := offset_row 16 low (v := 0x1A) (by decide)

theorem dist17 (low : Low) : Statement (.dist17 low) := offset_row 17 low (v := 0x2A) (by decide)

theorem dist18 (low : Low) : Statement (.dist18 low) := offset_row 18 low (v := 0xA) (by decide)

theorem dist19 (low : Low) : Statement (.dist19 low) := offset_row 19 low (v := 0x32) (by decide)

theorem dist20 (low : Low) : Statement (.dist20 low) := offset_row 20 low (v := 0x12) (by decide)

theorem dist21 (low : Low) : Statement (.dist21 low) := offset_row 21 low (v := 0x22) (by decide)

theorem dist22 (low : Low) : Statement (.dist22 low) := offset_row 22 low (v := 0x42) (by decide)

theorem dist23 (low : Low) : Statement (.dist23 low) := offset_row 23 low (v := 0x2) (by decide)

theorem dist24 (low : Low) : Statement (.dist24 low) := offset_row 24 low (v := 0x7C) (by decide)

theorem dist25 (low : Low) : Statement (.dist25 low) := offset_row 25 low (v := 0x3C) (by decide)

theorem dist26 (low : Low) : Statement (.dist26 low) := offset_row 26 low (v := 0x5C) (by decide)

theorem dist27 (low : Low) : Statement (.dist27 low) := offset_row 27 low (v := 0x1C) (by decide)

theorem dist28 (low : Low) : Statement (.dist28 low) := offset_row 28 low (v := 0x6C) (by decide)

theorem dist29 (low : Low) : Statement (.dist29 low) := offset_row 29 low (v := 0x2C) (by decide)

theorem dist30 (low : Low) : Statement (.dist30 low) := offset_row 30 low (v := 0x4C) (by decide)

theorem dist31 (low : Low) : Statement (.dist31 low) := offset_row 31 low (v := 0xC) (by decide)

theorem dist32 (low : Low) : Statement (.dist32 low) := offset_row 32 low (v := 0x74) (by decide)

theorem dist33 (low : Low) : Statement (.dist33 low) := offset_row 33 low (v := 0x34) (by decide)

theorem dist34 (low : Low) : Statement (.dist34 low) := offset_row 34 low (v := 0x54) (by decide)

theorem dist35 (low : Low) : Statement (.dist35 low) := offset_row 35 low (v := 0x14) (by decide)

theorem dist36 (low : Low) : Statement (.dist36 low) := offset_row 36 low (v := 0x64) (by decide)

theorem dist37 (low : Low) : Statement (.dist37 low) := offset_row 37 low (v := 0x24) (by decide)

theorem dist38 (low : Low) : Statement (.dist38 low) := offset_row 38 low (v := 0x44) (by decide)

theorem dist39 (low : Low) : Statement (.dist39 low) := offset_row 39 low (v := 0x4) (by decide)

theorem dist40 (low : Low) : Statement (.dist40 low) := offset_row 40 low (v := 0x78) (by decide)

theorem dist41 (low : Low) : Statement (.dist41 low) := offset_row 41 low (v := 0x38) (by decide)

theorem dist42 (low : Low) : Statement (.dist42 low) := offset_row 42 low (v := 0x58) (by decide)

theorem dist43 (low : Low) : Statement (.dist43 low) := offset_row 43 low (v := 0x18) (by decide)

theorem dist44 (low : Low) : Statement (.dist44 low) := offset_row 44 low (v := 0x68) (by decide)

theorem dist45 (low : Low) : Statement (.dist45 low) := offset_row 45 low (v := 0x28) (by decide)

theorem dist46 (low : Low) : Statement (.dist46 low) := offset_row 46 low (v := 0x48) (by decide)

theorem dist47 (low : Low) : Statement (.dist47 low) := offset_row 47 low (v := 0x8) (by decide)

theorem dist48 (low : Low) : Statement (.dist48 low) := offset_row 48 low (v := 0xF0) (by decide)

theorem dist49 (low : Low) : Statement (.dist49 low) := offset_row 49 low (v := 0x70) (by decide)

theorem dist50 (low : Low) : Statement (.dist50 low) := offset_row 50 low (v := 0xB0) (by decide)

theorem dist51 (low : Low) : Statement (.dist51 low) := offset_row 51 low (v := 0x30) (by decide)

theorem dist52 (low : Low) : Statement (.dist52 low) := offset_row 52 low (v := 0xD0) (by decide)

theorem dist53 (low : Low) : Statement (.dist53 low) := offset_row 53 low (v := 0x50) (by decide)

theorem dist54 (low : Low) : Statement (.dist54 low) := offset_row 54 low (v := 0x90) (by decide)

theorem dist55 (low : Low) : Statement (.dist55 low) := offset_row 55 low (v := 0x10) (by decide)

theorem dist56 (low : Low) : Statement (.dist56 low) := offset_row 56 low (v := 0xE0) (by decide)

theorem dist57 (low : Low) : Statement (.dist57 low) := offset_row 57 low (v := 0x60) (by decide)

theorem dist58 (low : Low) : Statement (.dist58 low) := offset_row 58 low (v := 0xA0) (by decide)

theorem dist59 (low : Low) : Statement (.dist59 low) := offset_row 59 low (v := 0x20) (by decide)

theorem dist60 (low : Low) : Statement (.dist60 low) := offset_row 60 low (v := 0xC0) (by decide)

theorem dist61 (low : Low) : Statement (.dist61 low) := offset_row 61 low (v := 0x40) (by decide)

theorem dist62 (low : Low) : Statement (.dist62 low) := offset_row 62 low (v := 0x80) (by decide)

theorem dist63 (low : Low) : Statement (.dist63 low) := offset_row 63 low (v := 0x0) (by decide)

theorem hdr0 (b : Byte) : Statement (.hdr0 b) := fun h => by
  have hb : b = 0 := by simpa [Instr.wf] using h
  subst hb; exact ⟨rfl, rfl⟩

theorem hdr1 (w : Byte) : Statement (.hdr1 w) := fun _ => ⟨rfl, rfl⟩

theorem compress : Statement .compress := fun _ => ⟨rfl, rfl⟩

theorem decompress : Statement .decompress := fun _ => ⟨rfl, rfl⟩

end Sys2Proof.Laws.EncodedWidth
end

