-- ==== Sys2Proof/Tests/Slice0.lean ====
section
/-! SUPPORT. The model's own tests: the well-formedness smoke, words written out from the spec's encodings, the worked examples
of the rules, and for every obligation with hypotheses a state that meets them all. -/

namespace Sys2Proof.Tests

-- One test at a time: each kernel evaluation would otherwise hold a thread of its own.
set_option Elab.async false

open Sys2Proof.Machine

/-- Bits written as 0 and 1, in stream order. -/
def b (l : List Nat) : List Bool := l.map (· == 1)

/-- Does the decoder read exactly this instruction from the bits, with none left? -/
def reads (ctx : Ctx) (bits : List Bool) (i : Instr) : Bool :=
  match decode tPkware ctx bits with
  | .ok (j, []) => j == i
  | .ok (_, _ :: _) => false
  | .error _ => false

/-- Does the decoder reject the bits with this reason? -/
def rejects (ctx : Ctx) (bits : List Bool) (r : Reject) : Bool :=
  match decode tPkware ctx bits with
  | .ok _ => false
  | .error e => e == r

/-! ### Well-formedness: one ill-formed term for each check -/

theorem test_wf_len15_255_refused : Instr.wf tPkware (.len15 255) = false := by decide
theorem test_wf_len15_254 : Instr.wf tPkware (.len15 254) = true := by decide
theorem test_wf_len8_two_refused : Instr.wf tPkware (.len8 2) = false := by decide
theorem test_wf_len0_one_refused : Instr.wf tPkware (.len0 1) = false := by decide
theorem test_wf_len0_zero : Instr.wf tPkware (.len0 0) = true := by decide
theorem test_wf_hdr0_one_refused : Instr.wf tPkware (.hdr0 1) = false := by decide
theorem test_wf_hdr0_zero : Instr.wf tPkware (.hdr0 0) = true := by decide
theorem test_wf_hdr1_seven_refused : Instr.wf tPkware (.hdr1 7) = false := by decide
theorem test_wf_hdr1_three_refused : Instr.wf tPkware (.hdr1 3) = false := by decide
theorem test_wf_hdr1_legal :
    Instr.wf tPkware (.hdr1 4) = true ∧ Instr.wf tPkware (.hdr1 5) = true ∧ Instr.wf tPkware (.hdr1 6) = true := by decide

/-! ### Words written out from the encodings (R101 to R112, the stream-order strings of R171, R116) -/

/-- LIT 0x41, the example of R104. -/
theorem test_decode_lit :
    reads .token (b [0, 1, 0, 0, 0, 0, 0, 1, 0]) (.lit 0x41) := by decide

/-- The length classes 0 to 7: selector 1, the class code of R171, extra value 1 where there are extra bits. -/
theorem test_decode_len0_to_len7 :
    reads .token (b [1, 1, 0, 1]) (.len0 0) ∧
    reads .token (b [1, 1, 1]) (.len1 0) ∧
    reads .token (b [1, 1, 0, 0]) (.len2 0) ∧
    reads .token (b [1, 0, 1, 1]) (.len3 0) ∧
    reads .token (b [1, 0, 1, 0, 1]) (.len4 0) ∧
    reads .token (b [1, 0, 1, 0, 0]) (.len5 0) ∧
    reads .token (b [1, 0, 0, 1, 1]) (.len6 0) ∧
    reads .token (b [1, 0, 0, 1, 0, 1]) (.len7 0) := by
  decide +kernel

/-- The length classes 8 to 15: selector 1, the class code of R171, extra value 1 where there are extra bits. -/
theorem test_decode_len8_to_len15 :
    reads .token (b [1, 0, 0, 1, 0, 0, 1]) (.len8 1) ∧
    reads .token (b [1, 0, 0, 0, 1, 1, 1, 0]) (.len9 1) ∧
    reads .token (b [1, 0, 0, 0, 1, 0, 1, 0, 0]) (.len10 1) ∧
    reads .token (b [1, 0, 0, 0, 0, 1, 1, 1, 0, 0, 0]) (.len11 1) ∧
    reads .token (b [1, 0, 0, 0, 0, 1, 0, 1, 0, 0, 0, 0]) (.len12 1) ∧
    reads .token (b [1, 0, 0, 0, 0, 0, 1, 1, 0, 0, 0, 0, 0]) (.len13 1) ∧
    reads .token (b [1, 0, 0, 0, 0, 0, 0, 1, 1, 0, 0, 0, 0, 0, 0]) (.len14 1) ∧
    reads .token (b [1, 0, 0, 0, 0, 0, 0, 0, 1, 0, 0, 0, 0, 0, 0, 0]) (.len15 1) := by
  decide +kernel

/-- END is class 15 with extra 255; with extra 254 it is the copy length 518 (R106, R108). -/
theorem test_decode_end :
    reads .token (b [1, 0, 0, 0, 0, 0, 0, 0, 1, 1, 1, 1, 1, 1, 1, 1]) (.endOfStream) ∧
    reads .token (b [1, 0, 0, 0, 0, 0, 0, 0, 0, 1, 1, 1, 1, 1, 1, 1]) (.len15 254) := by
  decide +kernel

/-- The offset classes 0 to 15: the class code of R171 and a low field of 2, 4, 5 or 6 bits (R110). -/
theorem test_decode_dist0_to_dist15 :
    reads (.offset 2) (b [1, 1, 0, 1]) (.dist0 (.w2 2)) ∧
    reads (.offset 4) (b [1, 0, 1, 1, 1, 0, 0, 0]) (.dist1 (.w4 1)) ∧
    reads (.offset 5) (b [1, 0, 1, 0, 0, 0, 0, 0, 1]) (.dist2 (.w5 16)) ∧
    reads (.offset 6) (b [1, 0, 0, 1, 1, 1, 1, 0, 0, 0, 0]) (.dist3 (.w6 3)) ∧
    reads (.offset 2) (b [1, 0, 0, 1, 0, 0, 1]) (.dist4 (.w2 2)) ∧
    reads (.offset 4) (b [1, 0, 0, 0, 1, 1, 0, 0, 0]) (.dist5 (.w4 1)) ∧
    reads (.offset 5) (b [1, 0, 0, 0, 0, 0, 0, 0, 0, 1]) (.dist6 (.w5 16)) ∧
    reads (.offset 6) (b [0, 1, 1, 1, 1, 1, 1, 1, 0, 0, 0, 0]) (.dist7 (.w6 3)) ∧
    reads (.offset 2) (b [0, 1, 1, 1, 1, 0, 0, 1]) (.dist8 (.w2 2)) ∧
    reads (.offset 4) (b [0, 1, 1, 1, 0, 1, 1, 0, 0, 0]) (.dist9 (.w4 1)) ∧
    reads (.offset 5) (b [0, 1, 1, 1, 0, 0, 0, 0, 0, 0, 1]) (.dist10 (.w5 16)) ∧
    reads (.offset 6) (b [0, 1, 1, 0, 1, 1, 1, 1, 0, 0, 0, 0]) (.dist11 (.w6 3)) ∧
    reads (.offset 2) (b [0, 1, 1, 0, 1, 0, 0, 1]) (.dist12 (.w2 2)) ∧
    reads (.offset 4) (b [0, 1, 1, 0, 0, 1, 1, 0, 0, 0]) (.dist13 (.w4 1)) ∧
    reads (.offset 5) (b [0, 1, 1, 0, 0, 0, 0, 0, 0, 0, 1]) (.dist14 (.w5 16)) ∧
    reads (.offset 6) (b [0, 1, 0, 1, 1, 1, 1, 1, 0, 0, 0, 0]) (.dist15 (.w6 3)) := by
  decide +kernel

/-- The offset classes 16 to 31: the class code of R171 and a low field of 2, 4, 5 or 6 bits (R110). -/
theorem test_decode_dist16_to_dist31 :
    reads (.offset 2) (b [0, 1, 0, 1, 1, 0, 0, 1]) (.dist16 (.w2 2)) ∧
    reads (.offset 4) (b [0, 1, 0, 1, 0, 1, 1, 0, 0, 0]) (.dist17 (.w4 1)) ∧
    reads (.offset 5) (b [0, 1, 0, 1, 0, 0, 0, 0, 0, 0, 1]) (.dist18 (.w5 16)) ∧
    reads (.offset 6) (b [0, 1, 0, 0, 1, 1, 1, 1, 0, 0, 0, 0]) (.dist19 (.w6 3)) ∧
    reads (.offset 2) (b [0, 1, 0, 0, 1, 0, 0, 1]) (.dist20 (.w2 2)) ∧
    reads (.offset 4) (b [0, 1, 0, 0, 0, 1, 1, 0, 0, 0]) (.dist21 (.w4 1)) ∧
    reads (.offset 5) (b [0, 1, 0, 0, 0, 0, 1, 0, 0, 0, 0, 1]) (.dist22 (.w5 16)) ∧
    reads (.offset 6) (b [0, 1, 0, 0, 0, 0, 0, 1, 1, 0, 0, 0, 0]) (.dist23 (.w6 3)) ∧
    reads (.offset 2) (b [0, 0, 1, 1, 1, 1, 1, 0, 1]) (.dist24 (.w2 2)) ∧
    reads (.offset 4) (b [0, 0, 1, 1, 1, 1, 0, 1, 0, 0, 0]) (.dist25 (.w4 1)) ∧
    reads (.offset 5) (b [0, 0, 1, 1, 1, 0, 1, 0, 0, 0, 0, 1]) (.dist26 (.w5 16)) ∧
    reads (.offset 6) (b [0, 0, 1, 1, 1, 0, 0, 1, 1, 0, 0, 0, 0]) (.dist27 (.w6 3)) ∧
    reads (.offset 2) (b [0, 0, 1, 1, 0, 1, 1, 0, 1]) (.dist28 (.w2 2)) ∧
    reads (.offset 4) (b [0, 0, 1, 1, 0, 1, 0, 1, 0, 0, 0]) (.dist29 (.w4 1)) ∧
    reads (.offset 5) (b [0, 0, 1, 1, 0, 0, 1, 0, 0, 0, 0, 1]) (.dist30 (.w5 16)) ∧
    reads (.offset 6) (b [0, 0, 1, 1, 0, 0, 0, 1, 1, 0, 0, 0, 0]) (.dist31 (.w6 3)) := by
  decide +kernel

/-- The offset classes 32 to 47: the class code of R171 and a low field of 2, 4, 5 or 6 bits (R110). -/
theorem test_decode_dist32_to_dist47 :
    reads (.offset 2) (b [0, 0, 1, 0, 1, 1, 1, 0, 1]) (.dist32 (.w2 2)) ∧
    reads (.offset 4) (b [0, 0, 1, 0, 1, 1, 0, 1, 0, 0, 0]) (.dist33 (.w4 1)) ∧
    reads (.offset 5) (b [0, 0, 1, 0, 1, 0, 1, 0, 0, 0, 0, 1]) (.dist34 (.w5 16)) ∧
    reads (.offset 6) (b [0, 0, 1, 0, 1, 0, 0, 1, 1, 0, 0, 0, 0]) (.dist35 (.w6 3)) ∧
    reads (.offset 2) (b [0, 0, 1, 0, 0, 1, 1, 0, 1]) (.dist36 (.w2 2)) ∧
    reads (.offset 4) (b [0, 0, 1, 0, 0, 1, 0, 1, 0, 0, 0]) (.dist37 (.w4 1)) ∧
    reads (.offset 5) (b [0, 0, 1, 0, 0, 0, 1, 0, 0, 0, 0, 1]) (.dist38 (.w5 16)) ∧
    reads (.offset 6) (b [0, 0, 1, 0, 0, 0, 0, 1, 1, 0, 0, 0, 0]) (.dist39 (.w6 3)) ∧
    reads (.offset 2) (b [0, 0, 0, 1, 1, 1, 1, 0, 1]) (.dist40 (.w2 2)) ∧
    reads (.offset 4) (b [0, 0, 0, 1, 1, 1, 0, 1, 0, 0, 0]) (.dist41 (.w4 1)) ∧
    reads (.offset 5) (b [0, 0, 0, 1, 1, 0, 1, 0, 0, 0, 0, 1]) (.dist42 (.w5 16)) ∧
    reads (.offset 6) (b [0, 0, 0, 1, 1, 0, 0, 1, 1, 0, 0, 0, 0]) (.dist43 (.w6 3)) ∧
    reads (.offset 2) (b [0, 0, 0, 1, 0, 1, 1, 0, 1]) (.dist44 (.w2 2)) ∧
    reads (.offset 4) (b [0, 0, 0, 1, 0, 1, 0, 1, 0, 0, 0]) (.dist45 (.w4 1)) ∧
    reads (.offset 5) (b [0, 0, 0, 1, 0, 0, 1, 0, 0, 0, 0, 1]) (.dist46 (.w5 16)) ∧
    reads (.offset 6) (b [0, 0, 0, 1, 0, 0, 0, 1, 1, 0, 0, 0, 0]) (.dist47 (.w6 3)) := by
  decide +kernel

/-- The offset classes 48 to 63: the class code of R171 and a low field of 2, 4, 5 or 6 bits (R110). -/
theorem test_decode_dist48_to_dist63 :
    reads (.offset 2) (b [0, 0, 0, 0, 1, 1, 1, 1, 0, 1]) (.dist48 (.w2 2)) ∧
    reads (.offset 4) (b [0, 0, 0, 0, 1, 1, 1, 0, 1, 0, 0, 0]) (.dist49 (.w4 1)) ∧
    reads (.offset 5) (b [0, 0, 0, 0, 1, 1, 0, 1, 0, 0, 0, 0, 1]) (.dist50 (.w5 16)) ∧
    reads (.offset 6) (b [0, 0, 0, 0, 1, 1, 0, 0, 1, 1, 0, 0, 0, 0]) (.dist51 (.w6 3)) ∧
    reads (.offset 2) (b [0, 0, 0, 0, 1, 0, 1, 1, 0, 1]) (.dist52 (.w2 2)) ∧
    reads (.offset 4) (b [0, 0, 0, 0, 1, 0, 1, 0, 1, 0, 0, 0]) (.dist53 (.w4 1)) ∧
    reads (.offset 5) (b [0, 0, 0, 0, 1, 0, 0, 1, 0, 0, 0, 0, 1]) (.dist54 (.w5 16)) ∧
    reads (.offset 6) (b [0, 0, 0, 0, 1, 0, 0, 0, 1, 1, 0, 0, 0, 0]) (.dist55 (.w6 3)) ∧
    reads (.offset 2) (b [0, 0, 0, 0, 0, 1, 1, 1, 0, 1]) (.dist56 (.w2 2)) ∧
    reads (.offset 4) (b [0, 0, 0, 0, 0, 1, 1, 0, 1, 0, 0, 0]) (.dist57 (.w4 1)) ∧
    reads (.offset 5) (b [0, 0, 0, 0, 0, 1, 0, 1, 0, 0, 0, 0, 1]) (.dist58 (.w5 16)) ∧
    reads (.offset 6) (b [0, 0, 0, 0, 0, 1, 0, 0, 1, 1, 0, 0, 0, 0]) (.dist59 (.w6 3)) ∧
    reads (.offset 2) (b [0, 0, 0, 0, 0, 0, 1, 1, 0, 1]) (.dist60 (.w2 2)) ∧
    reads (.offset 4) (b [0, 0, 0, 0, 0, 0, 1, 0, 1, 0, 0, 0]) (.dist61 (.w4 1)) ∧
    reads (.offset 5) (b [0, 0, 0, 0, 0, 0, 0, 1, 0, 0, 0, 0, 1]) (.dist62 (.w5 16)) ∧
    reads (.offset 6) (b [0, 0, 0, 0, 0, 0, 0, 0, 1, 1, 0, 0, 0, 0]) (.dist63 (.w6 3)) := by
  decide +kernel

/-- The header bytes 00 06 and the commands 1 and 2 (R101, R102, R116). -/
theorem test_decode_header_and_commands :
    reads .header0 (b [0, 0, 0, 0, 0, 0, 0, 0]) (.hdr0 0) ∧
    reads .header1 (b [0, 1, 1, 0, 0, 0, 0, 0]) (.hdr1 6) ∧
    reads .command (b [1, 0]) (.compress) ∧ reads .command (b [0, 1]) (.decompress) := by
  decide

/-- What is no instruction is rejected by name: no command, the reserved command, an input that ends (R115, R116). -/
theorem test_decode_rejects :
    rejects .command (b [0, 0]) .noCommand ∧ rejects .command (b [1, 1]) .reservedCommand ∧
    rejects .token (b [0, 1, 0]) .starved ∧ rejects .token [] .starved := by
  decide

/-- Words of the opcode table, as it numbers their bits. -/
theorem test_table_words :
    decodeTableWord 16 0x082 = some (.lit 0x41) ∧ decodeTableWord 8 0x0B = some (.len0 0) ∧
    decodeTableWord 16 0xFF01 = some .endOfStream ∧ decodeTableWord 8 0x1 = some .compress ∧
    decodeTableWord 8 0x2 = some .decompress ∧ decodeTableWord 8 0x0 = some (.hdr0 0) ∧
    decodeTableWord 8 0x3E = some (.dist7 (.w4 0)) := by
  decide +kernel

/-! ### Worked examples of the rules -/

/-- The default tables are well-formed (R172). -/
theorem test_tables_wf : tPkware.wf = true := by decide +kernel

/-- The codeword cells R173 lists. -/
theorem test_codewords :
    (cwValue tPkware 65, cwWidth tPkware 65) = (0x082, 9) ∧ (cwValue tPkware 256, cwWidth tPkware 256) = (0x000B, 4) ∧
    (cwValue tPkware 257, cwWidth tPkware 257) = (0x0007, 3) ∧ (cwValue tPkware 770, cwWidth tPkware 770) = (0xFC01, 16) ∧
    (cwValue tPkware 773, cwWidth tPkware 773) = (0xFF01, 16) ∧ (cwValue tPkware 265, cwWidth tPkware 265) = (0x49, 7) := by
  decide

/-- The jump-table cells R179 lists, by its definition. -/
theorem test_jump_cells :
    (List.range 32).map (fun x => (lenClass tPkware x).getD 99) =
      [15, 2, 5, 1, 8, 0, 3, 1, 10, 2, 4, 1, 6, 0, 3, 1, 12, 2, 5, 1, 7, 0, 3, 1, 9, 2, 4, 1, 6, 0, 3, 1] ∧
    (List.range 16).map (fun x => (distClass tPkware x).getD 99) =
      [63, 6, 23, 0, 39, 2, 14, 0, 47, 4, 18, 0, 31, 1, 10, 0] := by
  decide +kernel

/-- The examples of R212. -/
theorem test_lazy_defer :
    lazyDefer 3 157 3 14 = true ∧ lazyDefer 4 10 5 6 = true ∧ lazyDefer 8 9 7 9 = false ∧ lazyDefer 3 14 3 10 = false ∧
    lazyDefer 2 0 0 0 = false := by
  decide

/-- The alternative predicate on the operands of Z2, Z3, Z8, Z10 and Z12 (95_test_vectors.md, section 6.1). -/
theorem test_lazy_defer_legacy :
    legacy.lazyDefer 4 10 5 6 = false ∧ legacy.lazyDefer 3 157 3 14 = false ∧ legacy.lazyDefer 8 0 9 0 = false ∧
    legacy.lazyDefer 5 200 6 0 = true ∧ legacy.lazyDefer 5 100 7 0 = true := by
  decide

/-- The input L1 of 95_test_vectors.md, section 6.2: `abcd_bcdef_abcdef`. -/
def l1 : Memory :=
  storeBytes [] 0 [0x61, 0x62, 0x63, 0x64, 0x5F, 0x62, 0x63, 0x64, 0x65, 0x66, 0x5F, 0x61, 0x62, 0x63, 0x64, 0x65, 0x66]

/-- The streams of L1 under the default predicate and under the alternative one. -/
theorem test_streams_of_l1 :
    archStream standard 6 l1 17 =
      [0x00, 0x06, 0xC2, 0x88, 0x19, 0x43, 0xE6, 0xEB, 0x0F, 0xCA, 0x98, 0xF9, 0x12, 0xD6, 0x1B, 0x01, 0xFF] ∧
    archStream legacy 6 l1 17 =
      [0x00, 0x06, 0xC2, 0x88, 0x19, 0x43, 0xE6, 0xEB, 0x0F, 0xCA, 0x98, 0xF9, 0x9A, 0x95, 0x6D, 0x03, 0xFE, 0x01] := by
  decide +kernel

/-- COPYD 5, 1 is COPY 5, 0 (R118); a distance of 0 stands for no token (log 27). -/
theorem test_copyd : copyD 5 1 = some (.copy 5 0) ∧ copyD 5 0 = none := by decide

/-- Does a result satisfy a test of the state after it? -/
def okAnd (r : Res Unit) (p : State → Bool) : Bool :=
  match r with
  | .ok _ t => p t
  | .stop _ => false

/-- Does an outcome answer a next state that satisfies a test? -/
def nextAnd (o : Host.Outcome State Fault Refusal) (p : State → Bool) : Bool :=
  match o with
  | .next t => p t
  | .fault _ => false
  | .refused _ => false

/-- Is an outcome the refusal of this name? -/
def refusedAs (o : Host.Outcome State Fault Refusal) (r : Refusal) : Bool :=
  match o with
  | .next _ => false
  | .fault _ => false
  | .refused r' => r' == r

/-- The example of R143: three writes store AD 06 FC and leave 2 bits. -/
theorem test_write_bits :
    okAnd ((writeBits 3 0b101 State.reset).bind fun _ t => (writeBits 7 0x55 t).bind fun _ u => writeBits 16 0xFF01 u)
      (fun t => loadBytes t.cmp.outb 0 3 == [0xAD, 0x06, 0xFC] && t.cmp.outPos == 3 && t.cmp.acc == 0x03 && t.cmp.nacc == 2)
      = true := by
  decide +kernel

/-- The example of R144: FINISH stores 03 and pushes AD 06 FC 03. -/
theorem test_finish :
    okAnd (finish { State.reset with
        tc := { State.reset.tc with outLimit := 4 }
        cmp := { State.reset.cmp with outb := [(0, 0xAD), (1, 0x06), (2, 0xFC)], outPos := 3, acc := 0x03, nacc := 2 } })
      (fun t => loadBytes t.hostOut 0 4 == [0xAD, 0x06, 0xFC, 0x03] && t.tc.outCur == 4 && t.cmp.outPos == 0) = true := by
  decide +kernel

/-- DEC after an accepted header with `WSIZE` = 4, in state `d`, with the given rest of the input. -/
def decAt (d : DState) (bs : List Byte) : State :=
  { State.reset with
    cr := { State.reset.cr with cmd := 2, status := statusStart }
    tc := { State.reset.tc with inLen := bs.length, outLimit := 100000 }
    hdr := { litmode := 0, wsize := 4 }
    dec := { State.reset.dec with
      dstate := d, lenj := builtLenj tPkware, distj := builtDistj tPkware, offNext := decide (d = .copy) }
    hostIn := storeBytes [] 0 bs }

/-- The example of R155: the first READ takes the selector of LIT 0x41, the second its byte. -/
theorem test_read_bits :
    (match readBits standard 1 (decAt .token [0x82, 0x24, 0x25, 0x8F, 0x80, 0x7F]) with
      | .ok v t => v == 0 && (match readBits standard 8 t with
        | .ok w u => w == 0x41 && u.restBits.length == 39
        | .stop _ => false)
      | .stop _ => false) = true := by
  decide +kernel

/-- The example of R264: LIT 0x41 at the start. -/
theorem test_lit :
    nextAnd (exec (.lit 0x41) (decAt .literal []))
      (fun t => t.dec.win == [(4096, 0x41)] && t.dec.wpos == 4097 && t.dec.hist == 1) = true := by
  decide +kernel

/-- DEC with `AI` produced and a copy of length `n` begun. -/
def copyAt (n : Nat) : State :=
  let s := decAt .copy []
  { s with dec := { s.dec with win := [(4096, 0x41), (4097, 0x49)], wpos := 4098, hist := 2, tLen := n } }

/-- The example of R268: COPY 11, 1 after `AI` repeats with period 2. -/
theorem test_copy_overlaps :
    nextAnd (exec (.dist0 (.w4 1)) (copyAt 11))
      (fun t => loadBytes t.dec.win 4098 11 == [0x41, 0x49, 0x41, 0x49, 0x41, 0x49, 0x41, 0x49, 0x41, 0x49, 0x41] &&
        t.dec.wpos == 4109 && t.dec.hist == 13) = true := by
  decide +kernel

/-- The examples of R267: an offset of 2 with 2 bytes produced is before the start, cause 7, kind 3. -/
theorem test_copy_before_start :
    nextAnd (exec (.dist0 (.w2 2)) (copyAt 2)) 
      (fun t => t.cr.status == 0xFA && t.dec.dstate == .fail && t.cr.cmd == 0) = true := by
  decide +kernel

/-- END is taken without a byte. -/
theorem test_end :
    nextAnd (exec .endOfStream (decAt .copy [])) (fun t => t.dec.dstate == .eof && t.dec.wpos == 4096) = true := by
  decide +kernel

/-- The header examples of R262: 01 fails with BAD_LITMODE, 00 07 with BAD_WSIZE, 00 06 is accepted. -/
theorem test_header :
    nextAnd (exec (.hdr1 6) { decAt .header [] with dec := { (decAt .header []).dec with hdrByte0 := some 1 } })
      (fun t => t.cr.status == 0x2A) = true ∧
    nextAnd (exec (.hdr1 7) { decAt .header [] with dec := { (decAt .header []).dec with hdrByte0 := some 0 } })
      (fun t => t.cr.status == 0x4A) = true ∧
    nextAnd (exec (.hdr1 6) { decAt .header [] with dec := { (decAt .header []).dec with hdrByte0 := some 0 } })
      (fun t => t.dec.dstate == .token && t.dsize == 4096) = true := by
  decide +kernel

/-- The first steps of a DECOMPRESS of `00 06 01 FF`, and HEADER_SHORT on an empty input (R262). -/
theorem test_header_short :
    nextAnd (step (decAt .header [])) (fun t => t.cr.status == 0xBA && t.xfers == [.pull 0]) = true := by
  decide +kernel

/-- The example of R294: `WSIZE_CFG` = 7 fails at once, `ERR` = 1, `CAUSE` = 3. -/
theorem test_compress_bad_window :
    nextAnd (exec .compress { State.reset with cr := { State.reset.cr with wsizeCfg := 7 } })
      (fun t => t.cr.status == 0x6A && statusErr t.cr.status == 1 && t.tc.inCur == 0) = true := by
  decide +kernel

/-- COMPRESS starts with the header bytes 00 06 in `OUTB` (R141, R232). -/
theorem test_compress_starts :
    nextAnd (exec .compress { State.reset with cr := { State.reset.cr with wsizeCfg := 6, argInLen := 5 } })
      (fun t => t.cmp.outPos == 2 && t.cmp.outb == [(1, 6)] && t.cmp.cur == 4612 && t.tc.inLen == 5 && t.busy) = true := by
  decide +kernel

/-- Writing `CMD` = 1 starts the command at once (R293): `BUSY` is 1, and neither another `CMD` nor an operand, nor a byte of a
buffer, can then be written, nor `STATUS` read (R296, R299, R320). -/
theorem test_host_starts_a_command :
    nextAnd (hostIssue standard 1 [0x41] 6 100 State.reset)
      (fun t => t.busy && t.cr.cmd == 1 && t.tc.inLen == 1 && t.tc.outLimit == 100 && t.hostIn == [(0, 0x41)] &&
        hostStatus t == none && hostInLen t == none && refusedAs (hostSetCmd standard 0 t) .hostWhileBusy &&
        refusedAs (hostSetInLen standard 9 t) .hostWhileBusy && refusedAs (hostPutOutByte 0 1 t) .hostWhileBusy) = true := by
  decide +kernel

/-- A length of 2^32 is no value of a register of 32 bits (U19); `ARG_OUT_CAP` is no result before `DONE` (R81). -/
theorem test_host_limits :
    refusedAs (hostSetInLen standard (2 ^ 32) State.reset) .valueTooWide = true ∧ hostOutCap State.reset = none ∧
    hostStatus State.reset = some 0 ∧ hostWsizeCfg State.reset = some 0 ∧ hostInLen State.reset = some 0 := by
  decide +kernel

/-- The example of R292: six bytes into five are not pushed at all, into six they are. -/
theorem test_push :
    okAnd (push [] 2048 .outbRange 0 6 { State.reset with tc := { State.reset.tc with outLimit := 5 } })
      (fun t => t.tc.stop && t.tc.outCur == 0) = true ∧
    okAnd (push [] 2048 .outbRange 0 6 { State.reset with tc := { State.reset.tc with outLimit := 6 } })
      (fun t => !t.tc.stop && t.tc.outCur == 6) = true := by
  decide +kernel

/-- FLUSH_IF_FULL at 8191 flushes nothing; at 8192 a push that does not fit is OutputOverflow, cause 4 (R270). -/
theorem test_flush :
    okAnd (flushIfFull standard { decAt .flush [] with dec := { (decAt .flush []).dec with wpos := 8191 } })
      (fun t => t.dec.wpos == 8191 && t.dec.dstate == .token && t.xfers == []) = true ∧
    nextAnd (flushIfFull standard { decAt .flush [] with
        tc := { (decAt .flush []).tc with outLimit := 4095 }, dec := { (decAt .flush []).dec with wpos := 8192 } }).outcome
      (fun t => t.cr.status == 0x92 && t.tc.stop && t.tc.outCur == 0) = true := by
  decide +kernel

/-- The example of R271: one byte left is one push of 1 byte, `41`. -/
theorem test_final_flush :
    okAnd (finalFlush standard { decAt .eof [] with dec := { (decAt .eof []).dec with win := [(4096, 0x41)], wpos := 4097 } })
      (fun t => t.hostOut == [(0, 0x41)] && t.xfers == [.push 1] && t.cr.status == 0x06 && t.cr.argOutCap == 1) = true := by
  decide +kernel

/-- The slide of overlapping blocks reads each byte before it is overwritten (R346). -/
theorem test_move_down :
    loadBytes (moveBytes [(2, 1), (3, 2), (4, 3), (5, 4)] 2 0 4) 0 6 = [1, 2, 3, 4, 3, 4] := by
  decide

/-- CMP in `C_EMIT` with `WSIZE` = 4 and the input `AIA`, the last, loaded; `HTAB` and `IDX` as INDEX_BUILD leaves them (bucket
617 holds the position of `IA`, bucket 625 that of `AI`). -/
def emitAt : State :=
  { State.reset with
    cr := { State.reset.cr with cmd := 1, status := statusStart, wsizeCfg := 4, argInLen := 3, argOutCap := 100 }
    tc := { inCur := 3, inLen := 3, outCur := 0, outLimit := 100, stop := false }
    hdr := { litmode := 0, wsize := 4 }
    cmp := { State.reset.cmp with
      cstate := .emit, cur := 1540, nload := 3, loadEnd := 1543, scanEnd := 1543, ended := true, nidx := 2, outPos := 2
      cwv := builtCwv tPkware, cwb := builtCwb tPkware
      htab := List.replicate 618 0 ++ (List.replicate 8 1 ++ List.replicate 1678 2)
      idx := 1541 :: 1540 :: Table.zeros 8705
      work := [(1540, 0x41), (1541, 0x49), (1542, 0x41)], outb := [(1, 4)] }
    hostIn := [(0, 0x41), (1, 0x49), (2, 0x41)] }

/-- The index of the example of R202, for `AIA`: the buckets are those written out in `emitAt`. -/
theorem test_index_build :
    okAnd (indexBuild { emitAt with cmp := { emitAt.cmp with htab := Table.zeros 2304, idx := Table.zeros 8707, nidx := 0 } })
      (fun t => t.cmp.htab == emitAt.cmp.htab && t.cmp.idx.take 2 == [1541, 1540] && t.cmp.nidx == 2) = true := by
  decide +kernel

/-- FIND_MATCH finds no match for a single byte left, and the literal is emitted (R205, R213). -/
theorem test_choose_literal :
    (match choose standard emitAt with
      | .ok c t => c == (.lit 0x41, 1) && t.cmp.mLen == 0
      | .stop _ => false) = true := by
  decide +kernel

/-- One EMIT_STEP: LIT 0x41 stores 82 and leaves one bit (R175, R235). -/
theorem test_emit_step :
    okAnd (emitStep standard emitAt)
      (fun t => t.cmp.outb.read 2 == 0x82 && t.cmp.nacc == 1 && t.cmp.acc == 0 && t.cmp.cur == 1541) = true := by
  decide +kernel

/-- The pulls of 5000 bytes: 4096 and then 904 (R233). -/
theorem test_stage_short :
    okAnd (stage { emitAt with tc := { emitAt.tc with inCur := 4096, inLen := 5000 } })
      (fun t => t.cmp.nload == 904 && t.cmp.ended && t.cmp.scanEnd == 1024 + 904 + 516) = true := by
  decide +kernel

/-! ### A state for the hypotheses of every obligation that has some -/

/-- An outcome that answers a next state answers one. -/
theorem exists_next {o : Host.Outcome State Fault Refusal} {p : State → Bool} (h : nextAnd o p = true) :
    ∃ t, o = .next t ∧ p t = true := by
  cases o with
  | next t => exact ⟨t, rfl, h⟩
  | fault f => simp [nextAnd] at h
  | refused r => simp [nextAnd] at h

theorem memories_ok (s : State) (h1 : s.hostIn.wf = true) (h2 : s.hostOut.wf = true) (h3 : s.cmp.work.wf = true)
    (h4 : s.cmp.outb.wf = true) (h5 : s.dec.inb.wf = true) (h6 : s.dec.win.wf = true) (h7 : s.cmp.work.below 8708 = true)
    (h8 : s.cmp.outb.below 2048 = true) (h9 : s.dec.inb.below 2048 = true) (h10 : s.dec.win.below 8710 = true)
    (h11 : s.cmp.htab.length = 2304) (h12 : s.cmp.idx.length = 8707) : MemoriesOk standard s :=
  ⟨h1, h2, h3, h4, h5, h6, h7, h8, h9, h10, h11, h12⟩

/-- The invariant holds after reset. -/
theorem test_witness_inv_reset : Inv standard State.reset :=
  ⟨memories_ok _ rfl rfl rfl rfl rfl rfl rfl rfl rfl rfl List.length_replicate
      List.length_replicate, by constructor <;> decide, by decide,
    fun h => absurd h.1 (by decide), fun h => absurd h.1 (by decide), by decide⟩

/-- CMP in `C_EMIT` with `WSIZE` = 4 and the whole input `AIAI` loaded, after LIT `A` and LIT `I`: the cursor is at the second
`AI`, which matches the first. -/
def copyEmitAt : State :=
  { State.reset with
    cr := { State.reset.cr with cmd := 1, status := statusStart, wsizeCfg := 4, argInLen := 4, argOutCap := 100 }
    tc := { inCur := 4, inLen := 4, outCur := 0, outLimit := 100, stop := false }
    hdr := { litmode := 0, wsize := 4 }
    cmp := { State.reset.cmp with
      cstate := .emit, cur := 1542, nload := 4, loadEnd := 1544, scanEnd := 1544, ended := true, nidx := 3
      acc := 1, nacc := 2, outPos := 4, cwv := builtCwv tPkware, cwb := builtCwb tPkware
      htab := List.replicate 618 0 ++ (List.replicate 8 1 ++ List.replicate 1678 3)
      idx := 1541 :: 1540 :: 1542 :: Table.zeros 8704
      work := [(1540, 0x41), (1541, 0x49), (1542, 0x41), (1543, 0x49)], outb := [(1, 4), (2, 0x82), (3, 0x24)] }
    hostIn := [(0, 0x41), (1, 0x49), (2, 0x41), (3, 0x49)]
    xfers := [.pull 4] }

/-- The match at the cursor is COPY 2, 1, as one candidate of the bucket gives it (R205, R213). -/
theorem test_choose_copy :
    (match choose standard copyEmitAt with
      | .ok c _ => c == (.copy 2 1, 2)
      | .stop _ => false) = true := by
  decide +kernel

theorem htab_copyEmitAt (h : Nat) (hh : h < 2304) :
    copyEmitAt.cmp.htab.getD h 0 = if h < 618 then 0 else if h < 626 then 1 else 3 := by
  show (List.replicate 618 0 ++ (List.replicate 8 1 ++ List.replicate 1678 3)).getD h 0 = _
  simp only [List.getD_eq_getElem?_getD, List.getElem?_append, List.length_replicate, List.getElem?_replicate]
  split_ifs <;> first | rfl | omega

theorem bucket_copyEmitAt (h : Nat) (hh : h < 2304) :
    copyEmitAt.bucket h = (List.range' 1540 3).filter fun q => hashAt copyEmitAt.cmp.work q == h := by
  have hr : (List.range' 1540 3).filter (fun q => hashAt copyEmitAt.cmp.work q == h) =
      if h = 617 then [1541] else if h = 625 then [1540, 1542] else [] := by
    have h0 : hashAt copyEmitAt.cmp.work 1540 = 625 := by decide
    have h1 : hashAt copyEmitAt.cmp.work 1541 = 617 := by decide
    have h2 : hashAt copyEmitAt.cmp.work 1542 = 625 := by decide
    have hl : List.range' 1540 3 = [1540, 1541, 1542] := rfl
    rw [hl]
    simp only [List.filter_cons, h0, h1, h2, List.filter_nil]
    split_ifs <;> simp_all
  have hb : copyEmitAt.bend h = if h < 617 then 0 else if h < 625 then 1 else 3 := by
    unfold State.bend
    split_ifs <;> first | (rw [htab_copyEmitAt _ (by simp at *; omega)]; split_ifs <;> first | rfl | omega) | rfl |
      (simp at *; omega)
  rw [hr]
  unfold State.bucket
  rw [hb, htab_copyEmitAt h hh]
  split_ifs <;> first | rfl | omega
theorem content_cmp : CmpContent copyEmitAt := by
  refine ⟨?_, fun _ => by decide, fun _ h hh => bucket_copyEmitAt h hh⟩
  intro j h1 h2
  have h3 : j < 1544 := h1
  have h4 : 1540 ≤ j := h2
  interval_cases j <;> decide

theorem writer_ok_copyEmitAt : WriterOk tPkware copyEmitAt := ⟨by decide, by decide, by decide, by decide, rfl, rfl⟩

theorem running_cmp : copyEmitAt.running .cmp := ⟨rfl, rfl⟩

theorem cmp_running_copyEmitAt : CmpRunning tPkware copyEmitAt :=
  { stop := rfl, wsize := rfl, litmode := rfl, writer := writer_ok_copyEmitAt, state := by decide, curLo := by decide
    curValid := by decide, curHi := by decide, position := by decide, fromStart := fun _ => rfl, endSeen := by decide
    staging := by decide, loaded := by decide, analyze := by decide, index := fun _ => by decide +kernel
    shift := by decide, terminate := by decide }

/-- The invariant holds of a compressor in the middle of its work. -/
theorem inv_cmp : Inv standard copyEmitAt := by
  refine ⟨memories_ok _ rfl rfl rfl rfl rfl rfl rfl rfl rfl rfl ?_ ?_, by constructor <;> decide, fun _ => .inl rfl,
    fun _ => cmp_running_copyEmitAt, fun h => absurd h.2 (by decide), by decide⟩
  · show (List.replicate 618 0 ++ (List.replicate 8 1 ++ List.replicate 1678 3)).length = 2304
    rw [List.length_append, List.length_append, List.length_replicate, List.length_replicate, List.length_replicate]
  · show (List.replicate 8704 0).length + 1 + 1 + 1 = 8707
    rw [List.length_replicate]

/-- DEC at a token, with the bytes of LIT 0x41 left. -/
def tokenAt : State := decAt .token [0x82, 0x02]

theorem running_dec (d : DState) (bs : List Byte) : (decAt d bs).running .dec :=
  ⟨by change statusBusy statusStart = true; decide, rfl⟩

theorem reader_ok (d : DState) (bs : List Byte) : ReaderOk (decAt d bs) :=
  ⟨Nat.zero_le _, Nat.one_pos, le_refl _, Nat.zero_le _, le_refl _, by simp [decAt, State.reset], rfl⟩

theorem dec_tables_tokenAt : DecTables tPkware tokenAt :=
  { wsize := rfl, litmode := rfl, lenj := rfl, distj := rfl, hdr := rfl, hist := by decide, pushed := by decide }

theorem dec_running_tokenAt : DecRunning tPkware tokenAt :=
  { stop := rfl, reader := reader_ok _ _, state := by decide, header := by decide, tables := fun _ => dec_tables_tokenAt
    copy := by decide, offset := by decide, wpos := by decide }

theorem memories_tokenAt : MemoriesOk standard tokenAt :=
  memories_ok _ rfl rfl rfl rfl rfl rfl rfl rfl rfl rfl List.length_replicate List.length_replicate

/-- The invariant holds of a decompressor before a token. -/
theorem inv_dec : Inv standard tokenAt :=
  ⟨memories_tokenAt, by constructor <;> decide, fun _ => .inr rfl, fun h => absurd h.2 (by decide),
    fun _ => dec_running_tokenAt, by decide⟩

theorem reader_on_stream_tokenAt : ReaderOnStream tokenAt := by
  unfold ReaderOnStream
  decide +kernel

theorem window_tokenAt : WindowOk tokenAt := fun j h1 h2 => by
  have h3 : 4096 ≤ j + 0 := h2
  omega

/-- The idle machine with a command and operands written. -/
def idleAt (cmd : BitVec 2) (w : Byte) : State :=
  { State.reset with cr := { State.reset.cr with cmd := cmd, wsizeCfg := w } }

theorem inv_idle_compress : Inv standard (idleAt 1 4) :=
  ⟨memories_ok _ rfl rfl rfl rfl rfl rfl rfl rfl rfl rfl List.length_replicate List.length_replicate,
    by constructor <;> decide, fun h => absurd h (by decide), fun h => absurd h.1 (by decide),
    fun h => absurd h.1 (by decide), fun _ => rfl⟩

theorem inv_idle_decompress : Inv standard (idleAt 2 4) :=
  ⟨memories_ok _ rfl rfl rfl rfl rfl rfl rfl rfl rfl rfl List.length_replicate List.length_replicate,
    by constructor <;> decide, fun h => absurd h (by decide), fun h => absurd h.1 (by decide),
    fun h => absurd h.1 (by decide), fun _ => rfl⟩

theorem next_of (s : State) (h : nextAnd (step s) (fun _ => true) = true) : ∃ t, step s = .next t := by
  obtain ⟨t, h, _⟩ := exists_next h
  exact ⟨t, h⟩

/-! The witnesses, in the order of the obligations. -/

theorem test_witness_decode_of_encoded : Instr.wf tPkware (.len15 254) = true ∧ Instr.wf tPkware (.dist63 (.w6 63)) = true := by
  decide

theorem test_witness_encode_of_decoded :
    decode tPkware .token (b [0, 1, 0, 0, 0, 0, 0, 1, 0, 1]) = .ok (.lit 0x41, [true]) ∧
    decode tPkware (.offset 2) (b [1, 1, 0, 1]) = .ok (.dist0 (.w2 2), []) := ⟨rfl, rfl⟩

theorem test_witness_every_token_decodes :
    decode tPkware .token (b [1, 0, 0, 0, 0, 0, 0, 0, 1, 1, 1, 1, 1, 1, 1]) = .error .starved ∧
    decode tPkware (.offset 6) (b [0, 0, 0, 0, 0, 0, 0, 0, 1, 1, 1, 1, 1]) = .error .starved := ⟨rfl, rfl⟩

theorem test_witness_jump_tables :
    (∀ p ∈ tPkware.lenBits.zip tPkware.lenCode, p.2 < 2 ^ p.1) ∧
    (∀ p ∈ tPkware.distBits.zip tPkware.distCode, p.2 < 2 ^ p.1) := by decide

theorem test_witness_codewords : (Instr.len15 254).wf tPkware = true ∧
    (Instr.len15 254).lenParts tPkware = some (15, 254) ∧ (Instr.len0 0).lenParts tPkware = some (0, 0) :=
  ⟨rfl, rfl, rfl⟩

theorem test_witness_step_runs_decoded :
    fetch standard (idleAt 1 4) = .instr .compress (idleAt 1 4) ∧ fetch standard State.reset = .done (.next State.reset) ∧
    (idleAt 2 4).busy = false ∧ decode tPkware .command (bitsOfNat 2 (idleAt 2 4).cr.cmd.toNat) = .ok (.decompress, []) :=
  ⟨rfl, rfl, rfl, rfl⟩

theorem test_witness_step_runs_token :
    tokenAt.running .dec ∧ ReaderOk tokenAt ∧ tokenAt.dec.lenj = builtLenj tPkware ∧ tokenAt.dec.dstate = .token ∧
    decode tPkware .token tokenAt.restBits = .ok (.lit 0x41, b [1, 0, 0, 0, 0, 0, 0]) :=
  ⟨running_dec _ _, reader_ok _ _, rfl, rfl, rfl⟩

theorem test_witness_step_runs_offset :
    let s := { decAt .copy [0x03] with dec := { (decAt .copy [0x03]).dec with tLen := 3 } }
    s.running .dec ∧ ReaderOk s ∧ s.dec.distj = builtDistj tPkware ∧ s.dec.dstate = .copy ∧ s.dec.offNext = true ∧
    decode tPkware (.offset (if s.dec.tLen = 2 then 2 else s.hdr.wsize.toNat)) s.restBits = .ok (.dist0 (.w4 0), b [0, 0]) :=
  ⟨⟨rfl, rfl⟩, ⟨Nat.zero_le _, Nat.one_pos, le_refl _, Nat.zero_le _, le_refl _, by simp [decAt, State.reset], rfl⟩, rfl, rfl,
    rfl, rfl⟩

theorem test_witness_step_runs_header :
    (decAt .header [0x00, 0x06]).running .dec ∧ ReaderOk (decAt .header [0x00, 0x06]) ∧
    (decAt .header [0x00, 0x06]).dec.dstate = .header ∧ (decAt .header [0x00, 0x06]).restBytes = [0x00, 0x06] ∧
    (decAt .header []).restBytes = [] :=
  ⟨running_dec _ _, reader_ok _ _, rfl, rfl, rfl⟩

theorem test_witness_truncated_token :
    (decAt .token [0x82]).running .dec ∧ ReaderOk (decAt .token [0x82]) ∧ (decAt .token [0x82]).dec.lenj = builtLenj tPkware ∧
    decode tPkware .token (decAt .token [0x82]).restBits = .error .starved ∧
    ReaderOk (decAt .copy []) ∧ (decAt .copy []).dec.distj = builtDistj tPkware ∧ legalWsize (decAt .copy []).hdr.wsize = true ∧
    (decAt .copy []).dec.offNext = true ∧
    decode tPkware (.offset (lowWidth (decAt .copy []).dec.tLen (decAt .copy []).hdr.wsize)) (decAt .copy []).restBits =
      .error .starved :=
  ⟨running_dec _ _, reader_ok _ _, rfl, rfl, reader_ok _ _, rfl, rfl, rfl, rfl⟩

theorem test_witness_peek_consume :
    ReaderOk (decAt .token [0x82]) ∧ 8 ≤ (decAt .token [0x82]).restBits.length ∧ ReaderOk (decAt .token []) ∧
    (decAt .token []).restBits.length < 1 :=
  ⟨reader_ok _ _, by decide, reader_ok _ _, by decide⟩

theorem test_witness_read :
    ReaderOk (decAt .token [0x82]) ∧ (decAt .token [0x82]).dec.nbits ≤ 8 * (decAt .token [0x82]).bytesTaken ∧
    8 ≤ (decAt .token [0x82]).restBits.length :=
  ⟨reader_ok _ _, by decide, by decide⟩

theorem test_witness_write_bits :
    WriterOk tPkware copyEmitAt ∧ copyEmitAt.hostOut.wf = true ∧ copyEmitAt.tc.stop = false :=
  ⟨writer_ok_copyEmitAt, rfl, rfl⟩

theorem test_witness_finish :
    WriterOk tPkware copyEmitAt ∧ copyEmitAt.hostOut.wf = true ∧ copyEmitAt.tc.stop = false :=
  ⟨writer_ok_copyEmitAt, rfl, rfl⟩

theorem test_witness_stopped : { State.reset with tc := { State.reset.tc with stop := true } }.tc.stop = true := rfl

theorem test_witness_pull :
    Memory.wf [] = true ∧ { State.reset.tc with inLen := 5000, inCur := 4096 }.inLen = 5000 := ⟨rfl, rfl⟩

theorem test_witness_push :
    State.reset.hostOut.wf = true ∧ State.reset.tc.stop = false ∧ State.reset.tc.outLimit < State.reset.tc.outCur + 1 ∧
    copyEmitAt.hostOut.wf = true ∧ copyEmitAt.tc.outCur + 100 ≤ copyEmitAt.tc.outLimit ∧
    { State.reset with tc := { State.reset.tc with stop := true } }.tc.stop = true := by decide

theorem test_witness_other_commands : State.reset.accepts = true ∧ State.reset.busy = false ∧ tokenAt.busy = true :=
  ⟨rfl, rfl, rfl⟩

theorem test_witness_host_port :
    (idleAt 0 4).accepts = true ∧ legalWsize (idleAt 0 4).cr.wsizeCfg = true ∧ tokenAt.busy = true ∧
    (idleAt 0 4).busy = false ∧ 2 ^ 32 - 1 < 2 ^ standard.addrW ∧ ¬2 ^ 32 < 2 ^ standard.addrW :=
  ⟨rfl, rfl, rfl, rfl, by decide, by decide⟩

theorem test_witness_lit : Memory.wf [(8708, 1)] = true ∧ 8709 < 8710 := by decide

theorem test_witness_length_rows :
    (Instr.len8 1).lenParts tPkware = some (8, 1) ∧ Instr.len8 1 ≠ .endOfStream ∧
    (Instr.len0 0).lenParts tPkware = some (0, 0) := by decide

theorem test_witness_offset_copies :
    (Instr.dist0 (.w4 1)).distParts = some (0, .w4 1) ∧ (copyAt 11).dec.win.wf = true ∧
    offsetOf 0 (.w4 1) + 1 ≤ (copyAt 11).dec.hist ∧ offsetOf 0 (.w4 1) + 1 ≤ (copyAt 11).dec.wpos ∧
    (copyAt 11).dec.wpos + (copyAt 11).dec.tLen ≤ 8710 := by decide

theorem test_witness_offset_raises :
    (Instr.dist0 (.w4 2)).distParts = some (0, .w4 2) ∧ (copyAt 11).dec.hist < offsetOf 0 (.w4 2) + 1 := by decide

theorem test_witness_offsets_below : (Instr.dist63 (.w6 63)).distParts = some (63, .w6 63) := rfl

theorem test_witness_header_accepted :
    { decAt .header [] with dec := { (decAt .header []).dec with hdrByte0 := some 0 } }.dec.hdrByte0 = some 0 := rfl

theorem test_witness_header_rejected :
    { decAt .header [] with dec := { (decAt .header []).dec with hdrByte0 := some 1 } }.dec.hdrByte0 = some 1 ∧
    (1 : Byte) ≠ 0 ∧ ¬((3 : Byte) = 4 ∨ (3 : Byte) = 5 ∨ (3 : Byte) = 6) := ⟨rfl, by decide, by decide⟩

theorem test_witness_compress_starts :
    (idleAt 1 4).busy = false ∧ (idleAt 1 4).cr.wsizeCfg = 4 ∧ (idleAt 1 4).cmp.outb.wf = true := ⟨rfl, rfl, rfl⟩

theorem test_witness_compress_rejects :
    (idleAt 1 7).busy = false ∧ ¬((idleAt 1 7).cr.wsizeCfg = 4 ∨ (idleAt 1 7).cr.wsizeCfg = 5 ∨ (idleAt 1 7).cr.wsizeCfg = 6) :=
  ⟨rfl, by decide⟩

theorem test_witness_decompress_starts : (idleAt 2 0).busy = false := rfl

theorem test_witness_exception : State.reset.hostOut.wf = true := rfl

/-- DEC with its cursor at `w`, room for `n` more output bytes, and nothing pushed. -/
def flushAt (w n : Nat) : State :=
  { decAt .flush [] with tc := { (decAt .flush []).tc with outLimit := n }, dec := { (decAt .flush []).dec with wpos := w } }

theorem test_witness_flush :
    (flushAt 8191 0).tc.stop = false ∧ (flushAt 8191 0).dec.win.wf = true ∧ (flushAt 8191 0).hostOut.wf = true ∧
    (flushAt 8191 0).dec.wpos < 8192 ∧
    (8192 ≤ (flushAt 8192 4096).dec.wpos ∧ (flushAt 8192 4096).tc.outCur + 4096 ≤ (flushAt 8192 4096).tc.outLimit) ∧
    (8192 ≤ (flushAt 8710 4095).dec.wpos ∧ (flushAt 8710 4095).tc.outLimit < (flushAt 8710 4095).tc.outCur + 4096) := by
  decide

theorem test_witness_final_flush :
    (flushAt 4096 0).dec.wpos ≤ 4096 ∧ (flushAt 4096 0).tc.stop = false ∧ (flushAt 4096 0).hostOut.wf = true ∧
    (4096 < (flushAt 4097 1).dec.wpos ∧
      (flushAt 4097 1).tc.outCur + ((flushAt 4097 1).dec.wpos - 4096) ≤ (flushAt 4097 1).tc.outLimit) ∧
    (4096 < (flushAt 4097 0).dec.wpos ∧
      (flushAt 4097 0).tc.outLimit < (flushAt 4097 0).tc.outCur + ((flushAt 4097 0).dec.wpos - 4096)) := by
  decide

theorem test_witness_hash_buckets : ∃ t, indexBuild copyEmitAt = .ok () t := by
  have h1 : ¬copyEmitAt.workSize < copyEmitAt.cmp.loadEnd := by decide
  have h2 : ¬Config.idxSize < copyEmitAt.idxCount := by decide
  exact ⟨_, by rw [indexBuild, if_neg h1, if_neg h2]⟩

theorem test_witness_index_build :
    copyEmitAt.cmp.idx.length = 8707 ∧ copyEmitAt.cmp.loadEnd ≤ copyEmitAt.workSize ∧
    copyEmitAt.cmp.loadEnd - 1 - max copyEmitAt.loValid (copyEmitAt.cmp.cur - copyEmitAt.dsize) ≤ 8707 :=
  ⟨inv_cmp.memories.idx, by decide, by decide⟩

theorem test_witness_choose :
    (∃ c t, choose standard copyEmitAt = .ok c t) ∧
    copyEmitAt.cmp.cur < copyEmitAt.cmp.loadEnd ∧ copyEmitAt.cmp.loadEnd ≤ copyEmitAt.workSize := by
  refine ⟨?_, by decide, by decide⟩
  have h := test_choose_copy
  cases hc : choose standard copyEmitAt with
  | ok c t => exact ⟨c, t, rfl⟩
  | stop o => rw [hc] at h; simp at h

/-- Both cases of CHOOSE: a match at the cursor, none one byte on; and no match at the cursor. -/
theorem test_witness_choose_cases :
    ((findMatch copyEmitAt.cmp.cur copyEmitAt).toOption = some (2, 1) ∧
      (findMatch (copyEmitAt.cmp.cur + 1) copyEmitAt).toOption = some (0, 0)) ∧
    emitAt.cmp.cur < emitAt.cmp.loadEnd ∧ emitAt.cmp.loadEnd ≤ emitAt.workSize ∧
    (findMatch emitAt.cmp.cur emitAt).toOption = some (0, 0) := by
  decide +kernel

theorem test_witness_find_match :
    Inv standard copyEmitAt ∧ copyEmitAt.running .cmp ∧ CmpContent copyEmitAt ∧ copyEmitAt.cmp.cstate = .emit ∧
    copyEmitAt.cmp.cur ≤ 1542 ∧ 1542 < copyEmitAt.cmp.loadEnd :=
  ⟨inv_cmp, running_cmp, content_cmp, rfl, by decide, by decide⟩

theorem test_witness_find_match_whole :
    Inv standard copyEmitAt ∧ copyEmitAt.running .cmp ∧ CmpContent copyEmitAt ∧ copyEmitAt.cmp.cstate = .emit ∧
    copyEmitAt.cmp.cur < copyEmitAt.cmp.scanEnd ∧ 1543 = copyEmitAt.cmp.cur + 1 ∧ 1543 < copyEmitAt.cmp.loadEnd :=
  ⟨inv_cmp, running_cmp, content_cmp, rfl, by decide, rfl, by decide⟩

theorem test_witness_stage : copyEmitAt.cmp.work.wf = true := rfl

theorem test_witness_shift :
    { copyEmitAt.cmp with cur := 4096 }.work.wf = true ∧ 4096 ≤ { copyEmitAt.cmp with cur := 4096 }.cur := ⟨rfl, le_refl _⟩

theorem test_witness_emit :
    WriterOk tPkware copyEmitAt ∧ copyEmitAt.hostOut.wf = true ∧ copyEmitAt.tc.stop = false ∧
    legalWsize copyEmitAt.hdr.wsize = true ∧ Token.encodable copyEmitAt.hdr.wsize (.copy 2 255) = true ∧
    Token.encodable copyEmitAt.hdr.wsize (.copy 2 256) = false :=
  ⟨writer_ok_copyEmitAt, rfl, rfl, rfl, by decide, by decide⟩

theorem test_witness_step_keeps_inv_cmp : Inv standard copyEmitAt ∧ ∃ t, step copyEmitAt = .next t :=
  ⟨inv_cmp, next_of _ (by decide +kernel)⟩

theorem test_witness_step_keeps_inv_dec : Inv standard tokenAt ∧ ∃ t, step tokenAt = .next t :=
  ⟨inv_dec, next_of _ (by decide +kernel)⟩

theorem test_witness_step_answers : Inv standard tokenAt ∧ tokenAt.cr.cmd ≠ 3 := ⟨inv_dec, by decide⟩

theorem test_witness_content :
    Inv standard copyEmitAt ∧ CmpContent copyEmitAt ∧ ∃ t, step copyEmitAt = .next t ∧ t.running .cmp := by
  obtain ⟨t, h1, h2⟩ := exists_next
    (show nextAnd (step copyEmitAt) (fun t => t.busy && t.cr.cmd == 1) = true by decide +kernel)
  simp only [Bool.and_eq_true, beq_iff_eq] at h2
  exact ⟨inv_cmp, content_cmp, t, h1, h2⟩

theorem dec_steps : ∃ t, step tokenAt = .next t ∧ t.running .dec := by
  obtain ⟨t, h1, h2⟩ := exists_next
    (show nextAnd (step tokenAt) (fun t => t.busy && t.cr.cmd == 2) = true by decide +kernel)
  simp only [Bool.and_eq_true, beq_iff_eq] at h2
  exact ⟨t, h1, h2⟩

theorem test_witness_reader_on_stream :
    Inv standard tokenAt ∧ tokenAt.running .dec ∧ ReaderOnStream tokenAt ∧ ∃ t, step tokenAt = .next t ∧ t.running .dec :=
  ⟨inv_dec, running_dec _ _, reader_on_stream_tokenAt, dec_steps⟩

theorem test_witness_window :
    Inv standard tokenAt ∧ tokenAt.running .dec ∧ WindowOk tokenAt ∧ ∃ t, step tokenAt = .next t ∧ t.running .dec :=
  ⟨inv_dec, running_dec _ _, window_tokenAt, dec_steps⟩

theorem test_witness_steps_touch :
    (∃ t, step tokenAt = .next t) ∧ tokenAt.running .dec ∧ (∃ t, step copyEmitAt = .next t) ∧ copyEmitAt.running .cmp :=
  ⟨next_of _ (by decide +kernel), running_dec _ _, next_of _ (by decide +kernel), running_cmp⟩

/-- CMP before TERMINATE, all of `AIAI` scanned, with room for `n` bytes of output. -/
def endAt (n : Nat) : State :=
  { copyEmitAt with
    tc := { copyEmitAt.tc with outLimit := n }
    cmp := { copyEmitAt.cmp with cstate := .terminate, cur := 1544 } }

theorem inv_endAt (n : Nat) (h : n < 2 ^ 32) : Inv standard (endAt n) := by
  have m := inv_cmp.memories
  have w := inv_cmp.widths
  have k := writer_ok_copyEmitAt
  have c := cmp_running_copyEmitAt
  have cur : (endAt 0).cmp.cur < 2 ^ 14 := by decide
  have state : (endAt 0).cmp.cstate ∈ [.staging, .analyze, .emit, .shift, .terminate] := by decide
  have lo : (endAt 0).dsize ≤ (endAt 0).cmp.cur := by decide
  have valid : (endAt 0).loValid ≤ (endAt 0).cmp.cur := by decide
  have hi : (endAt 0).cmp.cur ≤ (endAt 0).validEnd := by decide
  have position : (endAt 0).validEnd ≤ (endAt 0).tc.inCur + (endAt 0).loValid := by decide
  exact
    { memories := ⟨m.hostIn, m.hostOut, m.work, m.outb, m.inb, m.win, m.workIn, m.outbIn, m.inbIn, m.winIn, m.htab, m.idx⟩
      widths :=
        ⟨w.argInLen, w.argOutCap, w.inCur, w.inLen, Nat.zero_le _, h, cur, w.nload, w.loadEnd, w.scanEnd, w.round,
          w.mLen, w.mOff, w.nLen, w.nOff, w.nidx, w.nacc, w.outPos, w.nbits, w.inPos, w.inFill, w.wposLo, w.wposHi, w.hist,
          w.tLen, w.tOff, w.src⟩
      busyCmd := fun _ => .inl rfl
      cmp := fun _ =>
        { stop := rfl, wsize := rfl, litmode := rfl, writer := ⟨k.nacc, k.acc, k.outPos, k.outb, k.cwv, k.cwb⟩
          state := state, curLo := lo, curValid := valid, curHi := hi, position := position
          fromStart := c.fromStart, endSeen := c.endSeen, staging := fun h => CState.noConfusion h
          loaded := fun _ => c.loaded (by decide), analyze := fun h => CState.noConfusion h
          index := fun h => CState.noConfusion h, shift := fun h => CState.noConfusion h, terminate := fun _ => ⟨rfl, rfl⟩ }
      dec := fun h => absurd h.2 (by show ¬(1 : BitVec 2) = 2; decide)
      success := fun _ => rfl }

theorem content_endAt (n : Nat) : CmpContent (endAt n) :=
  ⟨content_cmp.work, fun h => CState.noConfusion h, fun h => CState.noConfusion h⟩

/-- DEC before FINAL_FLUSH with one byte to push and room for `n`. -/
def eofAt (n : Nat) : State :=
  let s := decAt .eof []
  { s with tc := { s.tc with outLimit := n }, dec := { s.dec with win := [(4096, 0x41)], wpos := 4097, hist := 1 } }

theorem inv_eofAt (n : Nat) (h : n < 2 ^ 32) : Inv standard (eofAt n) := by
  have w : WidthsOk standard (eofAt 0) := by constructor <;> decide
  exact
    { memories := memories_ok _ rfl rfl rfl rfl rfl rfl rfl rfl rfl rfl List.length_replicate List.length_replicate
      widths :=
        ⟨w.argInLen, w.argOutCap, w.inCur, w.inLen, Nat.zero_le _, h, w.cur, w.nload, w.loadEnd, w.scanEnd, w.round,
          w.mLen, w.mOff, w.nLen, w.nOff, w.nidx, w.nacc, w.outPos, w.nbits, w.inPos, w.inFill, w.wposLo, w.wposHi, w.hist,
          w.tLen, w.tOff, w.src⟩
      busyCmd := fun _ => .inr rfl
      cmp := fun h => absurd h.2 (by show ¬(2 : BitVec 2) = 1; decide)
      dec := fun _ =>
        { stop := rfl
          reader := ⟨Nat.zero_le _, Nat.one_pos, le_refl _, Nat.zero_le _, le_refl _, fun h => Bool.noConfusion h, rfl⟩
          state := by show DState.eof ∈ _; decide
          header := fun h => DState.noConfusion h
          tables := fun _ =>
            { wsize := rfl, litmode := rfl, lenj := rfl, distj := rfl, hdr := rfl, hist := by simp [eofAt, decAt, State.reset]
              pushed := rfl }
          copy := fun h => DState.noConfusion h, offset := rfl, wpos := fun _ => by show 4097 ≤ 8191; decide }
      success := fun _ => rfl }

theorem test_witness_stop_ends :
    (Inv standard (endAt 3) ∧ (endAt 3).busy = true ∧ ∃ t, step (endAt 3) = .next t ∧ t.tc.stop = true) ∧
    (Inv standard (eofAt 0) ∧ (eofAt 0).busy = true ∧ ∃ t, step (eofAt 0) = .next t ∧ t.tc.stop = true) :=
  ⟨⟨inv_endAt 3 (by decide), rfl, exists_next (by decide +kernel)⟩,
    inv_eofAt 0 (by decide), rfl, exists_next (by decide +kernel)⟩

theorem transfers_cmp : CmpTransfers copyEmitAt := ⟨by decide, by decide, by decide, by decide⟩

theorem test_witness_compress_computes :
    (Inv standard (idleAt 1 4) ∧ (idleAt 1 4).busy = false ∧ legalWsize (idleAt 1 4).cr.wsizeCfg = true ∧
      ∃ t, step (idleAt 1 4) = .next t) ∧
    (Inv standard copyEmitAt ∧ copyEmitAt.running .cmp ∧ CmpContent copyEmitAt ∧ CmpTransfers copyEmitAt ∧
      ∃ t, step copyEmitAt = .next t) :=
  ⟨⟨inv_idle_compress, rfl, rfl, next_of _ (by decide +kernel)⟩,
    inv_cmp, running_cmp, content_cmp, transfers_cmp, next_of _ (by decide +kernel)⟩

/-- Both ways a COMPRESS can end: its 7 bytes of output fit, or do not. -/
theorem test_witness_compress_ends :
    (∀ n, CmpContent (endAt n) ∧ CmpTransfers (endAt n)) ∧
    (Inv standard (endAt 100) ∧ ∃ t, step (endAt 100) = .next t ∧ (!t.busy && statusSuccess t.cr.status) = true) ∧
    (Inv standard (endAt 3) ∧ ∃ t, step (endAt 3) = .next t ∧ (!t.busy && !statusSuccess t.cr.status) = true) :=
  ⟨fun n => ⟨content_endAt n, transfers_cmp.pulls, transfers_cmp.whole, transfers_cmp.pushes, transfers_cmp.chunks⟩,
    ⟨inv_endAt 100 (by decide), exists_next (by decide +kernel)⟩, inv_endAt 3 (by decide), exists_next (by decide +kernel)⟩

theorem test_witness_decompress_computes :
    (Inv standard (idleAt 2 4) ∧ (idleAt 2 4).busy = false ∧ ∃ t, step (idleAt 2 4) = .next t) ∧
    (Inv standard tokenAt ∧ tokenAt.running .dec ∧ WindowOk tokenAt ∧ DecTransfers tokenAt ∧ ∃ t, step tokenAt = .next t) :=
  ⟨⟨inv_idle_decompress, rfl, next_of _ (by decide +kernel)⟩, inv_dec, running_dec _ _, window_tokenAt,
    ⟨by decide, by decide, by decide, by decide⟩, next_of _ (by decide +kernel)⟩

/-- Both ways a FINAL_FLUSH can end. -/
theorem test_witness_decompress_ends :
    (DecTransfers (eofAt 1) ∧ DecTransfers (eofAt 0)) ∧
    (Inv standard (eofAt 1) ∧ ∃ t, step (eofAt 1) = .next t ∧ (!t.busy && statusSuccess t.cr.status) = true) ∧
    (Inv standard (eofAt 0) ∧ ∃ t, step (eofAt 0) = .next t ∧ (!t.busy && !statusSuccess t.cr.status) = true) :=
  ⟨⟨⟨by decide, by decide, by decide, by decide⟩, by decide, by decide, by decide, by decide⟩,
    ⟨inv_eofAt 1 (by decide), exists_next (by decide +kernel)⟩, inv_eofAt 0 (by decide), exists_next (by decide +kernel)⟩

theorem test_witness_completes :
    Inv standard copyEmitAt ∧ copyEmitAt.busy = true ∧ Inv standard tokenAt ∧ tokenAt.busy = true :=
  ⟨inv_cmp, rfl, inv_dec, rfl⟩

theorem test_witness_round_trip :
    standard.wf = true ∧ legacy.wf = true ∧ legalWsize 4 = true ∧ legalWsize 6 = true ∧ 3 ≤ 3 ∧ ¬3 ≤ 2 := by
  decide +kernel

theorem test_witness_stream_size : legacy.tables = tPkware ∧ legalWsize 5 = true := ⟨rfl, by decide⟩

/-- An address width R10 does not allow, and a code whose first two classes collide (R172). -/
theorem test_witness_ill_formed_parameters :
    State.reset.busy = false ∧ Config.Params.wf { standard with addrW := 12 } = false ∧
    Config.Params.wf { standard with
      tables := { tPkware with lenCode := tPkware.lenCode.set 1 1 } } = false := by
  decide +kernel

end Sys2Proof.Tests
end

section
/-! SUPPORT. The machine of `exec` and `step` at the values R10 takes, and what an ill-formed parameter set does to a command. -/

namespace Sys2Proof.Machine

/-- Each row's meaning is the shared operation at the values R10 takes. -/
theorem exec_eq_execWith (i : Instr) (s : State) : exec i s = execWith standard i s := by
  cases i <;> rfl

theorem step_eq_stepWith (s : State) : step s = stepWith standard s := by
  unfold step stepWith
  cases fetch standard s with
  | instr i t => exact exec_eq_execWith i t
  | done o => rfl

theorem runCompress_illFormed {P : Config.Params} {s : State} (hb : s.busy = false) (hP : P.wf = false) :
    runCompress P s = .refused .illFormedParameters := by
  simp [runCompress, hb, hP]

theorem runDecompress_illFormed {P : Config.Params} {s : State} (hb : s.busy = false) (hP : P.wf = false) :
    runDecompress P s = .refused .illFormedParameters := by
  simp [runDecompress, hb, hP]

/-- Settles O59: row by row for `exec`, hence for `step`; a command that could start tests its parameters before it does. -/
theorem stepIsTheStandardInstance : Obligations.StepIsTheStandardInstance :=
  ⟨exec_eq_execWith, step_eq_stepWith, rfl, rfl, rfl,
    fun _ _ hb hP => ⟨runCompress_illFormed hb hP, runDecompress_illFormed hb hP⟩⟩

end Sys2Proof.Machine
end

section
/-! SUPPORT. Partial correctness: what holds of the state an operation or a step answers with, if it answers one. The rules go
along `Res.bind`, so that a property of a long operation is put together from those of its parts. -/

namespace Sys2Proof.Machine

/-- `E` holds of the next state, if the outcome is one. -/
def NextHolds (E : State → Prop) (o : Host.Outcome State Fault Refusal) : Prop :=
  match o with
  | .next s => E s
  | .fault _ => True
  | .refused _ => True

/-- `Q` holds of the value and the state an operation goes on with, `E` of the next state it ends the step in. -/
def Res.Holds {α : Type} (Q : α → State → Prop) (E : State → Prop) (r : Res α) : Prop :=
  match r with
  | .ok v s => Q v s
  | .stop o => NextHolds E o

section Rules

variable {α β : Type} {Q : α → State → Prop} {R : β → State → Prop} {E : State → Prop}

@[simp] theorem nextHolds_next {s : State} : NextHolds E (.next s) ↔ E s := Iff.rfl

@[simp] theorem Res.holds_ok {v : α} {s : State} : (Res.ok v s).Holds Q E ↔ Q v s := Iff.rfl

@[simp] theorem Res.holds_fault {f : Fault} : (Res.fault f : Res α).Holds Q E := trivial

@[simp] theorem Res.holds_refuse {f : Refusal} : (Res.refuse f : Res α).Holds Q E := trivial

@[simp] theorem holds_raise {P : Config.Params} {e : Engine} {c : Cause} {s : State} :
    (raise P e c s : Res α).Holds Q E ↔ E (s.fail P e c) := Iff.rfl

theorem NextHolds.mono {E' : State → Prop} {o : Host.Outcome State Fault Refusal} (h : NextHolds E o)
    (hE : ∀ s, E s → E' s) : NextHolds E' o := by
  cases o with
  | next s => exact hE s h
  | fault f => trivial
  | refused f => trivial

theorem Res.Holds.mono {r : Res α} {Q' : α → State → Prop} (h : r.Holds Q E) (hQ : ∀ v s, Q v s → Q' v s) :
    r.Holds Q' E := by
  cases r with
  | ok v s => exact hQ v s h
  | stop o => exact h

theorem Res.Holds.bind {r : Res α} {f : α → State → Res β} (h : r.Holds Q E) (hf : ∀ v s, Q v s → (f v s).Holds R E) :
    (r.bind f).Holds R E := by
  cases r with
  | ok v s => exact hf v s h
  | stop o => exact h

theorem Res.Holds.outcome {r : Res Unit} (h : r.Holds (fun _ => E) E) : NextHolds E r.outcome := by
  cases r with
  | ok v s => exact h
  | stop o => exact h

/-- An operation that may fault goes on with its value in the state it was given. -/
theorem holds_orFault (x : Except Fault α) (s : State) : (orFault x s).Holds (fun a t => x = .ok a ∧ s = t) E := by
  cases x with
  | ok a => exact ⟨rfl, rfl⟩
  | error f => trivial

end Rules

/-- What holds of the state after the fetched instruction's execution, or after the step that executes none. -/
def Fetched.Runs (E : State → Prop) (f : Fetched) : Prop :=
  match f with
  | .instr i t => NextHolds E (exec i t)
  | .done o => NextHolds E o

theorem Res.Holds.runs {E : State → Prop} {r : Res Instr} (h : r.Holds (fun i t => NextHolds E (exec i t)) E) :
    r.fetched.Runs E := by
  cases r with
  | ok i t => exact h
  | stop o => exact h

theorem nextHolds_step_dec {E : State → Prop} {s : State} (hs : s.running .dec) (h : (decFetch standard s).Runs E) :
    NextHolds E (step s) := by
  rw [step_dec hs]
  cases hf : decFetch standard s with
  | instr i t => rw [hf] at h; exact h
  | done o => rw [hf] at h; exact h

end Sys2Proof.Machine
end

section
/-! SUPPORT. The rows of the opcode table by their class: which row a class and its operand name, and that every row of one kind
executes the one operation of its kind (R106, R111, R119). -/

namespace Sys2Proof.Machine

/-- The row a length class and its extra value name: END for symbol 517, else the row of the class, of which there are 16. -/
theorem lenInstr_eq_some {T : Config.CodeTables} {c e : Nat} {i : Instr} (h : lenInstr T c e = some i) :
    (lenBase T c + e = 517 ∧ i = .endOfStream) ∨
    (lenBase T c + e ≠ 517 ∧ c < 16 ∧ ∀ s, exec i s = setCopyLength standard c (e % 256) s) := by
  unfold lenInstr at h
  split_ifs at h with h517
  · exact .inl ⟨h517, (Option.some.inj h).symm⟩
  · right
    split at h <;> simp only [Option.some.injEq, reduceCtorEq] at h <;> subst h <;>
      exact ⟨h517, by decide, fun s => by rw [exec_eq_execWith, execWith, BitVec.toNat_ofNat]⟩

/-- The row an offset class and its low field name executes that class; there are 64. -/
theorem distInstr_eq_some {c : Nat} {low : Low} {i : Instr} (h : distInstr c low = some i) :
    c < 64 ∧ ∀ s, exec i s = copyFromOffset standard c low s := by
  unfold distInstr at h
  split at h <;> simp only [Option.some.injEq, reduceCtorEq] at h <;> subst h <;>
    exact ⟨by decide, fun s => exec_eq_execWith _ s⟩

theorem Low.width_le (low : Low) : low.width ≤ 6 := by
  cases low <;> simp [Low.width]

/-- An offset of one of the 64 classes has 12 bits (R38, R111). -/
theorem offsetOf_lt {c : Nat} (hc : c < 64) (low : Low) : offsetOf c low < 2 ^ 12 := by
  have hv := low.val_lt
  have hw : 2 ^ low.width ≤ 2 ^ 6 := Nat.pow_le_pow_right (by decide) (Low.width_le low)
  have hm : c * 2 ^ low.width ≤ 63 * 2 ^ 6 := Nat.mul_le_mul (by omega) hw
  unfold offsetOf
  omega

end Sys2Proof.Machine
end

section
/-! SUPPORT. The read side (R150 to R155, R180, R181): what taking bits keeps. Reading changes the bit reader, the input cursor
and the log of transfers; the reader stays well formed and inside its memory. -/

namespace Sys2Proof.Machine

/-! ### The frame of reading -/

theorem SameButReader.trans {s t u : State} (h : SameButReader s t) (h' : SameButReader t u) : SameButReader s u := by
  unfold SameButReader at *
  rw [h] at h'
  exact h'

/-- `s` is `r` after some reading: the frame, and a reader between operations. -/
structure ReadFrom (r s : State) : Prop where
  frame  : SameButReader r s
  reader : ReaderOk s
  inbIn  : s.dec.inb.below Config.inbSize = true
  inCur  : s.tc.inCur ≤ s.tc.inLen

variable {P : Config.Params} {E : State → Prop} {r s : State}

/-! ### NEXT_BYTE -/

theorem ReadFrom.refill (h : ReadFrom r s) : ReadFrom r (refill s) where
  frame := h.frame.trans rfl
  reader := {
    nbits := h.reader.nbits
    bitbuf := h.reader.bitbuf
    inPos := Nat.zero_le _
    inFill := (pullCount_le s Config.inbSize).1
    taken := Nat.le_add_left _ _
    eof := fun he => by
      obtain ⟨-, hl⟩ := h.reader.eof he
      have hn : pullCount s Config.inbSize = 0 := by simp only [pullCount]; omega
      exact ⟨hn.symm, Nat.le_add_right_of_le hl⟩
    inb := (pull_read h.reader.inb 0 Config.inbSize s).1 }
  inbIn := copyCells_below _ _ _ _ _ h.inbIn (by rw [Nat.zero_add]; exact (pullCount_le s Config.inbSize).1)
  inCur := by
    have := (pullCount_le s Config.inbSize).2
    have := h.inCur
    show s.tc.inCur + pullCount s Config.inbSize ≤ s.tc.inLen
    omega

/-- A byte left in `INB` is taken; the reader has not seen the end of the input. -/
theorem ReadFrom.takeInb (h : ReadFrom r s) (hp : s.dec.inPos ≠ s.dec.inFill) :
    (takeInb s).Holds (fun _ t => ReadFrom r t ∧ t.dec.nbits = s.dec.nbits) E := by
  have hlt : s.dec.inPos < s.dec.inFill := Nat.lt_of_le_of_ne h.reader.inPos hp
  unfold Machine.takeInb
  split_ifs
  · trivial
  · exact ⟨{ h with
      frame := h.frame.trans rfl
      reader := { h.reader with inPos := hlt, eof := fun he => absurd (h.reader.eof he).1 hp } }, rfl⟩

/-- NEXT_BYTE keeps the reader, and what `BITBUF` holds is not touched (R151). -/
theorem ReadFrom.nextByte (h : ReadFrom r s) :
    (nextByte s).Holds (fun _ t => ReadFrom r t ∧ t.dec.nbits = s.dec.nbits) E := by
  rcases nextByte_cases s with ⟨hp, he⟩ | ⟨-, -, he⟩ | ⟨-, -, hn, he⟩ | ⟨-, -, hn, he⟩ <;> rw [he]
  · exact h.takeInb hp
  · exact ⟨h, rfl⟩
  · have h' := h.refill
    have hc := h.inCur
    refine ⟨{ h' with
      frame := h'.frame.trans rfl
      reader := { h'.reader with eof := fun _ => ⟨hn.symm, ?_⟩ } }, rfl⟩
    show s.tc.inLen ≤ s.tc.inCur + pullCount s Config.inbSize
    simp only [pullCount] at hn ⊢
    omega
  · exact h.refill.takeInb (fun h0 => hn h0.symm)

/-! ### FILL, PEEK, CONSUME, READ -/

/-- A byte goes above the bits already in `BITBUF` and fills no more than it has (R152). -/
theorem loadByte_bitbuf_lt (b : Byte) (hb : s.dec.bitbuf.toNat < 2 ^ s.dec.nbits) :
    (loadByte b s).dec.bitbuf.toNat < 2 ^ (s.dec.nbits + 8) := by
  rw [loadByte_dec_bitbuf, BitVec.toNat_or]
  refine Nat.or_lt_two_pow (hb.trans_le (Nat.pow_le_pow_right (by decide) (by omega))) ?_
  have hw : (b.setWidth 16).toNat < 2 ^ 8 := by
    rw [BitVec.toNat_setWidth]
    exact (Nat.mod_le _ _).trans_lt b.isLt
  rw [BitVec.toNat_shiftLeft, Nat.shiftLeft_eq, Nat.add_comm, pow_add]
  exact (Nat.mod_le _ _).trans_lt (Nat.mul_lt_mul_of_pos_right hw (Nat.two_pow_pos _))

theorem ReadFrom.loadByte (h : ReadFrom r s) (hn : s.dec.nbits ≤ 8) (b : Byte) : ReadFrom r (loadByte b s) :=
  { h with
    frame := h.frame.trans rfl
    reader := { h.reader with
      nbits := Nat.add_le_add_right hn 8
      bitbuf := loadByte_bitbuf_lt b h.reader.bitbuf } }

theorem ReadFrom.fillLoop (fuel : Nat) (h : ReadFrom r s) : (fillLoop fuel s).Holds (fun _ t => ReadFrom r t) E := by
  induction fuel generalizing s with
  | zero => exact h
  | succ fuel ih =>
    unfold Machine.fillLoop
    split_ifs with hn
    · refine h.nextByte.bind fun o t ht => ?_
      cases o with
      | none => exact ht.1
      | some b => exact ih (ht.1.loadByte (ht.2.trans_le hn) b)
    · exact h

theorem ReadFrom.fill (h : ReadFrom r s) : (fill s).Holds (fun _ t => ReadFrom r t) E := h.fillLoop 2

/-- PEEK answers a number of `k` bits (R153). -/
theorem ReadFrom.peek (k : Nat) (h : ReadFrom r s) : (peek k s).Holds (fun v t => ReadFrom r t ∧ v < 2 ^ k) E := by
  unfold Machine.peek
  split_ifs
  · trivial
  · exact h.fill.bind fun _ t ht => ⟨ht, Nat.mod_lt _ (Nat.two_pow_pos k)⟩

theorem ReadFrom.shiftRight (h : ReadFrom r s) {k : Nat} (hk : k ≤ s.dec.nbits) :
    ReadFrom r { s with dec := { s.dec with bitbuf := s.dec.bitbuf >>> k, nbits := s.dec.nbits - k } } :=
  { h with
    frame := h.frame.trans rfl
    reader := { h.reader with
      nbits := (Nat.sub_le _ _).trans h.reader.nbits
      bitbuf := by
        show (s.dec.bitbuf >>> k).toNat < 2 ^ (s.dec.nbits - k)
        rw [BitVec.toNat_ushiftRight, Nat.shiftRight_eq_div_pow]
        refine Nat.div_lt_of_lt_mul ?_
        rw [← pow_add, Nat.add_sub_cancel' hk]
        exact h.reader.bitbuf } }

section Starving

variable (hE : ∀ t, ReadFrom r t → E (t.fail P .dec .starved))
include hE

/-- CONSUME takes its bits or raises STARVED (R154). -/
theorem ReadFrom.consume (k : Nat) (h : ReadFrom r s) : (consume P k s).Holds (fun _ t => ReadFrom r t) E := by
  unfold Machine.consume
  split_ifs
  · trivial
  · refine h.fill.bind fun _ t ht => ?_
    split_ifs with hk
    · exact hE t ht
    · exact ht.shiftRight (Nat.le_of_not_lt hk)

theorem ReadFrom.readBits (k : Nat) (h : ReadFrom r s) :
    (readBits P k s).Holds (fun v t => ReadFrom r t ∧ v < 2 ^ k) E :=
  (h.peek k).bind fun _ _ ht => (ht.1.consume hE k).bind fun _ _ hu => ⟨hu, ht.2⟩

theorem ReadFrom.readExtra (i : Nat) (h : ReadFrom r s) :
    (readExtra P i s).Holds (fun e t => ReadFrom r t ∧ e < 2 ^ lenExtra P.tables i) E := by
  unfold Machine.readExtra
  split_ifs
  · exact ⟨h, Nat.two_pow_pos _⟩
  · exact h.readBits hE _

/-- DECODE_LEN: the extra value has the width of its class (R180). -/
theorem ReadFrom.decodeLen (h : ReadFrom r s) :
    (decodeLen P s).Holds (fun p t => ReadFrom r t ∧ p.2 < 2 ^ lenExtra P.tables p.1) E :=
  (h.peek 8).bind fun _ _ ht => (ht.1.consume hE _).bind fun _ _ hu => (hu.readExtra hE _).bind fun _ _ hv => hv

theorem ReadFrom.decodeOff (len : Nat) (h : ReadFrom r s) : (decodeOff P len s).Holds (fun _ t => ReadFrom r t) E :=
  (h.peek 8).bind fun _ _ ht => (ht.1.consume hE _).bind fun _ _ hu => (hu.readBits hE _).bind fun _ _ hv => hv.1

end Starving

end Sys2Proof.Machine
end

section
/-! SUPPORT. The write side (R140 to R145, R175 to R177): what writing bits keeps. Writing changes the bit writer, the output
cursor, `STOP`, `HOST_OUT` and the log of transfers; the writer stays well formed and inside its memory, whether or not a push
fits. -/

namespace Sys2Proof.Machine

/-- `s` is `r` after some writing: the frame, and `OUTB` and the output between operations. -/
structure WrittenFrom (r s : State) : Prop where
  frame   : SameButWriter r s
  hostOut : s.hostOut.wf = true
  outb    : s.cmp.outb.wf = true
  outbIn  : s.cmp.outb.below Config.outbSize = true
  outPos  : s.cmp.outPos ≤ 2047
  outCur  : s.tc.outCur ≤ s.tc.outLimit

/-- `ACC` between operations: fewer than 8 bits, zeros above them (R140). -/
structure AccOk (s : State) : Prop where
  nacc : s.cmp.nacc ≤ 7
  acc  : s.cmp.acc.toNat < 2 ^ s.cmp.nacc

theorem SameButWriter.trans {s t u : State} (h : SameButWriter s t) (h' : SameButWriter t u) : SameButWriter s u := by
  unfold SameButWriter at *
  rw [h] at h'
  exact h'

variable {E : State → Prop} {r s : State}

theorem SameButWriter.cstate (h : SameButWriter r s) : s.cmp.cstate = r.cmp.cstate := congrArg (fun x => x.cmp.cstate) h

theorem SameButWriter.cur (h : SameButWriter r s) : s.cmp.cur = r.cmp.cur := congrArg (fun x => x.cmp.cur) h

theorem SameButWriter.loadEnd (h : SameButWriter r s) : s.cmp.loadEnd = r.cmp.loadEnd := congrArg (fun x => x.cmp.loadEnd) h

/-! ### Bytes -/

/-- A push out of `OUTB`, after which `OUT_POS` is 0: appended, not fitting, or after `STOP` (R142, R144). What `OUT_POS` was
before does not matter: FLUSH_OUTB begins with 2048. -/
theorem WrittenFrom.pushOutb (h : WrittenFrom r { s with cmp := { s.cmp with outPos := 0 } }) (n : Nat) :
    ((push s.cmp.outb Config.outbSize .outbRange 0 n s).bind fun _ t =>
      .ok () { t with cmp := { t.cmp with outPos := 0 } }).Holds
      (fun _ t => WrittenFrom r t ∧ t.cmp.acc = s.cmp.acc ∧ t.cmp.nacc = s.cmp.nacc) E := by
  rcases push_cases s.cmp.outb Config.outbSize .outbRange 0 n s with
    ⟨-, he⟩ | ⟨-, -, he⟩ | ⟨-, -, -, he⟩ | ⟨-, -, hfit, he⟩ <;> rw [he]
  · exact ⟨h, rfl, rfl⟩
  · trivial
  · exact ⟨{ h with frame := h.frame.trans rfl }, rfl, rfl⟩
  · exact ⟨{ h with
      frame := h.frame.trans rfl
      outCur := hfit
      hostOut := (copyCells_spec _ _ _ _ _ h.hostOut).1 }, rfl, rfl⟩

/-- While `OUTB` has room STORE_BYTE stores the byte and does nothing else (R141). -/
theorem storeByte_eq {b : Byte} (hstop : s.tc.stop = false) (hp : s.cmp.outPos < 2047) :
    storeByte b s = .ok () { s with
      cmp := { s.cmp with outb := s.cmp.outb.write s.cmp.outPos b, outPos := s.cmp.outPos + 1 } } := by
  rcases storeByte_cases b s with ⟨h, -⟩ | ⟨-, h, -⟩ | ⟨-, -, he⟩ | ⟨-, h, -⟩
  · rw [hstop] at h; cases h
  · omega
  · exact he
  · omega

theorem WrittenFrom.storeByte (h : WrittenFrom r s) (b : Byte) :
    (storeByte b s).Holds (fun _ t => WrittenFrom r t ∧ t.cmp.acc = s.cmp.acc ∧ t.cmp.nacc = s.cmp.nacc) E := by
  have hw := Memory.wf_write h.outb s.cmp.outPos b
  have hi : (s.cmp.outb.write s.cmp.outPos b).below Config.outbSize = true :=
    Memory.below_write b h.outbIn (Nat.lt_succ_of_le h.outPos)
  rcases storeByte_cases b s with ⟨-, he⟩ | ⟨-, -, he⟩ | ⟨-, hp, he⟩ | ⟨-, -, he⟩ <;> rw [he]
  · exact ⟨h, rfl, rfl⟩
  · trivial
  · exact ⟨{ h with frame := h.frame.trans rfl, outb := hw, outbIn := hi, outPos := Nat.succ_le_of_lt hp }, rfl, rfl⟩
  · refine WrittenFrom.pushOutb ?_ _
    exact { h with frame := h.frame.trans rfl, outb := hw, outbIn := hi, outPos := Nat.zero_le _ }

/-! ### Bits -/

theorem WrittenFrom.clearAcc (h : WrittenFrom r s) : WrittenFrom r (clearAcc s) :=
  { h with frame := h.frame.trans rfl }

theorem accOk_clearAcc (s : State) : AccOk (clearAcc s) := ⟨Nat.zero_le _, Nat.zero_lt_one⟩

theorem WrittenFrom.addToAcc (h : WrittenFrom r s) (take v : Nat) : WrittenFrom r (addToAcc take v s) :=
  { h with frame := h.frame.trans rfl }

/-- The bits put into `ACC` go above those already there (R143). -/
theorem addToAcc_acc_lt (take v : Nat) (h : s.cmp.acc.toNat < 2 ^ s.cmp.nacc) :
    (addToAcc take v s).cmp.acc.toNat < 2 ^ (addToAcc take v s).cmp.nacc := by
  rw [addToAcc_cmp_acc, addToAcc_cmp_nacc, BitVec.toNat_or, BitVec.toNat_ofNat]
  refine Nat.or_lt_two_pow (h.trans_le (Nat.pow_le_pow_right (by decide) (Nat.le_add_right _ _))) ?_
  refine (Nat.mod_le _ _).trans_lt ?_
  rw [Nat.add_comm, pow_add]
  exact Nat.mul_lt_mul_of_pos_right (Nat.mod_lt _ (Nat.two_pow_pos _)) (Nat.two_pow_pos _)

theorem WrittenFrom.writeLoop (fuel n v : Nat) (h : WrittenFrom r s) (ha : AccOk s) :
    (writeLoop fuel n v s).Holds (fun _ t => WrittenFrom r t ∧ AccOk t) E := by
  induction fuel generalizing n v s with
  | zero => exact ⟨h, ha⟩
  | succ fuel ih =>
    have ht := h.addToAcc (min n (8 - s.cmp.nacc)) v
    have hacc := addToAcc_acc_lt (min n (8 - s.cmp.nacc)) v ha.acc
    unfold Machine.writeLoop
    dsimp only
    split_ifs with hn h8
    · exact ⟨h, ha⟩
    · exact (ht.storeByte _).bind fun _ u hu => ih _ _ hu.1.clearAcc (accOk_clearAcc u)
    · refine ih _ _ ht ⟨?_, hacc⟩
      have := ha.nacc
      rw [addToAcc_cmp_nacc] at h8 ⊢
      omega

theorem WrittenFrom.writeBits (n v : Nat) (h : WrittenFrom r s) (ha : AccOk s) :
    (writeBits n v s).Holds (fun _ t => WrittenFrom r t ∧ AccOk t) E := by
  unfold Machine.writeBits
  split_ifs
  · exact ⟨h, ha⟩
  · trivial
  · exact h.writeLoop _ _ _ ha

/-- FINISH: the padded byte, then the rest of `OUTB` (R144). -/
theorem WrittenFrom.finish (h : WrittenFrom r s) (ha : AccOk s) :
    (finish s).Holds (fun _ t => WrittenFrom r t ∧ AccOk t) E := by
  have hbyte : (finishByte s).Holds (fun _ t => WrittenFrom r t ∧ AccOk t) E := by
    unfold finishByte
    split_ifs
    · exact ⟨h, ha⟩
    · exact (h.storeByte _).bind fun _ t ht => ⟨ht.1.clearAcc, accOk_clearAcc t⟩
  unfold Machine.finish
  split_ifs
  · exact ⟨h, ha⟩
  · refine hbyte.bind fun _ t ⟨ht, hta⟩ => ?_
    unfold finishPush
    split_ifs
    · exact ⟨ht, hta⟩
    · have h0 : WrittenFrom r { t with cmp := { t.cmp with outPos := 0 } } :=
        { ht with frame := ht.frame.trans rfl, outPos := Nat.zero_le _ }
      exact (h0.pushOutb _).mono fun _ u ⟨hu, hacc, hnacc⟩ =>
        ⟨hu, by rw [hnacc]; exact hta.nacc, by rw [hacc, hnacc]; exact hta.acc⟩

/-! ### Tokens -/

theorem WrittenFrom.emitEnd (h : WrittenFrom r s) (ha : AccOk s) :
    (emitEnd s).Holds (fun _ t => WrittenFrom r t ∧ AccOk t) E := h.writeBits _ _ ha

theorem WrittenFrom.emitToken (T : Config.CodeTables) (tok : Token) (h : WrittenFrom r s) (ha : AccOk s) :
    (emitToken T tok s).Holds (fun _ t => WrittenFrom r t ∧ AccOk t) E := by
  cases tok with
  | lit b => exact h.writeBits _ _ ha
  | copy len off =>
    simp only [Machine.emitToken, emitCopy]
    split_ifs
    · exact (h.writeBits _ _ ha).bind fun _ t ht => (ht.1.writeBits _ _ ht.2).bind fun _ u hu => hu.1.writeBits _ _ hu.2
    · trivial

end Sys2Proof.Machine
end

section
/-! SUPPORT. The invariant by the agent whose step is next: what is to be shown of a state in which CMP runs, in which DEC runs,
or in which no command does. -/

namespace Sys2Proof.Machine

/-- The part of the invariant that holds in every state, whichever engine runs. -/
structure Bounded (P : Config.Params) (s : State) : Prop where
  memories : MemoriesOk P s
  widths   : WidthsOk P s

/-- The invariant in a state in which CMP runs. -/
structure CmpBusy (P : Config.Params) (s : State) : Prop where
  bounded : Bounded P s
  running : s.running .cmp
  cmp     : CmpRunning P.tables s

/-- The invariant in a state in which DEC runs. -/
structure DecBusy (P : Config.Params) (s : State) : Prop where
  bounded : Bounded P s
  running : s.running .dec
  dec     : DecRunning P.tables s

variable {P : Config.Params} {s : State}

theorem Inv.bounded (h : Inv P s) : Bounded P s := ⟨h.memories, h.widths⟩

/-- A state of the invariant belongs to one of the three agents. -/
theorem Inv.cases (h : Inv P s) : s.busy = false ∨ CmpBusy P s ∨ DecBusy P s := by
  cases hb : s.busy with
  | false => exact .inl rfl
  | true =>
    right
    rcases h.busyCmd hb with hc | hc
    · exact .inl ⟨h.bounded, ⟨hb, hc⟩, h.cmp ⟨hb, hc⟩⟩
    · exact .inr ⟨h.bounded, ⟨hb, hc⟩, h.dec ⟨hb, hc⟩⟩

theorem not_running_both (hc : s.running .cmp) (hd : s.running .dec) : False := by
  have h1 : s.cr.cmd = 1 := hc.2
  have h2 : s.cr.cmd = 2 := hd.2
  exact absurd (h1.symm.trans h2) (by decide)

theorem CmpBusy.inv (h : CmpBusy P s) : Inv P s where
  memories := h.bounded.memories
  widths := h.bounded.widths
  busyCmd _ := .inl h.running.2
  cmp _ := h.cmp
  dec hd := (not_running_both h.running hd).elim
  success _ := h.cmp.stop

theorem DecBusy.inv (h : DecBusy P s) : Inv P s where
  memories := h.bounded.memories
  widths := h.bounded.widths
  busyCmd _ := .inr h.running.2
  cmp hc := (not_running_both hc h.running).elim
  dec _ := h.dec
  success _ := h.dec.stop

/-- While no command runs the engines are bound to nothing. -/
theorem Bounded.inv_of_idle (h : Bounded P s) (hb : s.busy = false)
    (hs : statusSuccess s.cr.status = true → s.tc.stop = false) : Inv P s where
  memories := h.memories
  widths := h.widths
  busyCmd hb' := absurd (hb.symm.trans hb') (by decide)
  cmp hr := absurd (hb.symm.trans hr.1) (by decide)
  dec hr := absurd (hb.symm.trans hr.1) (by decide)
  success := hs

/-- An exception ends in a state of the invariant: `ARG_OUT_CAP` and `HOST_OUT` hold free values, but of their widths (R297,
R316). -/
theorem Bounded.inv_fail (h : Bounded P s) (e : Engine) (c : Cause) : Inv P (s.fail P e c) := by
  have hb : Bounded P (s.fail P e c) := by
    cases e <;> exact {
      memories := { h.memories with hostOut := (overlay_spec _ _ h.memories.hostOut).1 }
      widths := { h.widths with argOutCap := Nat.mod_lt _ (Nat.two_pow_pos P.addrW) } }
  refine hb.inv_of_idle ?_ fun hs => ?_
  · cases e <;> exact statusBusy_fail _ c
  · have hf : statusSuccess (s.fail P e c).cr.status = false := by cases e <;> exact statusSuccess_fail _ c
    exact absurd (hf.symm.trans hs) (by decide)

/-- So does a successful end: `ARG_OUT_CAP` is `OUT_CUR` (R297). -/
theorem Bounded.inv_complete (h : Bounded P s) (hstop : s.tc.stop = false) (e : Engine) : Inv P (s.complete e) := by
  have hb : Bounded P (s.complete e) := by
    cases e <;> exact {
      memories := { h.memories with }
      widths := { h.widths with argOutCap := h.widths.outCur.trans_lt h.widths.outLimit } }
  refine hb.inv_of_idle ?_ fun _ => ?_
  · cases e <;> exact statusBusy_ok
  · cases e <;> exact hstop

/-! ### Command start (R293, R341) -/

theorem Bounded.startCommand (h : Bounded P s) (c : BitVec 2) : Bounded P (s.startCommand c) where
  memories := { h.memories with }
  widths := { h.widths with
    inCur := Nat.zero_le _
    inLen := h.widths.argInLen
    outCur := Nat.zero_le _
    outLimit := h.widths.argOutCap }

/-! ### Reading and writing keep the bounds -/

theorem ReadFrom.refl (h : Bounded P s) (hr : ReaderOk s) : ReadFrom s s := ⟨rfl, hr, h.memories.inbIn, h.widths.inCur⟩

theorem Bounded.of_readFrom {r : State} (h : Bounded P r) (hs : ReadFrom r s) : Bounded P s := by
  have e : s = _ := hs.frame
  rw [e]
  exact {
    memories := { h.memories with inb := hs.reader.inb, inbIn := hs.inbIn }
    widths := { h.widths with
      inCur := e ▸ hs.inCur
      nbits := hs.reader.nbits
      inPos := hs.reader.inPos.trans hs.reader.inFill
      inFill := hs.reader.inFill } }

theorem WrittenFrom.refl (h : Bounded P s) (hp : s.cmp.outPos ≤ 2047) : WrittenFrom s s :=
  ⟨rfl, h.memories.hostOut, h.memories.outb, h.memories.outbIn, hp, h.widths.outCur⟩

theorem Bounded.of_writtenFrom {r : State} (h : Bounded P r) (hs : WrittenFrom r s) (ha : AccOk s) : Bounded P s := by
  have e : s = _ := hs.frame
  rw [e]
  exact {
    memories := { h.memories with hostOut := hs.hostOut, outb := hs.outb, outbIn := hs.outbIn }
    widths := { h.widths with
      outCur := e ▸ hs.outCur
      nacc := ha.nacc
      outPos := hs.outPos.trans (by decide) } }

end Sys2Proof.Machine
end

section
/-! SUPPORT. The match finder's bounds: a match stays inside the loaded data and the window (R205, R206), and after INDEX_BUILD
every cell of `HTAB` is a slot of the index (R202). -/

namespace Sys2Proof.Machine

/-! ### FIND_MATCH -/

theorem matchLen_le (work : Memory) (n : Nat) : ∀ q p, matchLen work q p n ≤ n := by
  induction n with
  | zero => intro q p; exact Nat.le_refl 0
  | succ n ih =>
    intro q p
    simp only [matchLen]
    split_ifs
    · exact Nat.succ_le_succ (ih _ _)
    · exact Nat.zero_le _

/-- A match of at most `l` bytes at an offset below `d`. -/
def MatchWithin (l d : Nat) (m : Nat × Nat) : Prop := m.1 ≤ l ∧ m.2 < d

/-- A candidate in the window of `p` gives a match within the window. -/
theorem improve_within {l d k p q : Nat} {best : Nat × Nat} (hb : MatchWithin l d best) (hk : k ≤ l) (hq : p < q + 1 + d) :
    MatchWithin l d (improve k p q best) := by
  obtain ⟨h1, h2⟩ := hb
  unfold improve
  split_ifs
  · exact ⟨hk, by show p - q - 1 < d; omega⟩
  · exact ⟨h1, h2⟩

theorem scanBucket_within {work : Memory} {p l d floor : Nat} (hf : p ≤ floor + d) (cands : List Nat) :
    ∀ best, MatchWithin l d best → MatchWithin l d (scanBucket work p l floor cands best) := by
  induction cands with
  | nil => intro best hb; exact hb
  | cons q rest ih =>
    intro best hb
    simp only [scanBucket]
    split_ifs with h1 h2 h3
    · exact ih _ hb
    · exact hb
    · exact improve_within hb (matchLen_le _ _ _ _) (by omega)
    · exact ih _ (improve_within hb (matchLen_le _ _ _ _) (by omega))

/-- FIND_MATCH answers a match clipped at the loaded data, at an offset in the window (R205, R206). -/
theorem findMatch_within {s : State} {p : Nat} {m : Nat × Nat} (hd : 0 < s.dsize) (h : findMatch p s = .ok m) :
    MatchWithin (s.maxLenAt p) s.dsize m := by
  have h0 : MatchWithin (s.maxLenAt p) s.dsize (0, 0) := ⟨Nat.zero_le _, hd⟩
  unfold findMatch at h
  dsimp only at h
  split_ifs at h
  · exact Except.ok.inj h ▸ h0
  · rw [← Except.ok.inj h]
    unfold lengthTwoRule
    split_ifs
    · exact h0
    · exact scanBucket_within (by unfold State.floorAt; omega) _ _ h0

/-! ### INDEX_BUILD -/

theorem getD_le_of_forall_le {b : Nat} {l : List Nat} (hl : ∀ x ∈ l, x ≤ b) (i : Nat) : l.getD i 0 ≤ b := by
  rw [List.getD_eq_getElem?_getD]
  cases h : l[i]? with
  | none => exact Nat.zero_le b
  | some x => exact hl x (List.mem_of_getElem? h)

/-- Counting one position adds at most one to the sum of the cells. -/
theorem sum_set_succ_le (l : List Nat) : ∀ i, (l.set i (l.getD i 0 + 1)).sum ≤ l.sum + 1 := by
  induction l with
  | nil => intro i; simp
  | cons x xs ih =>
    intro i
    cases i with
    | zero => simp; omega
    | succ i => simpa [Nat.add_assoc] using ih i

theorem length_countPass (work : Memory) (n : Nat) : ∀ q htab, (countPass work q htab n).length = htab.length := by
  induction n with
  | zero => intro q htab; rfl
  | succ n ih => intro q htab; simp only [countPass, ih, List.length_set]

theorem sum_countPass_le (work : Memory) (n : Nat) : ∀ q htab, (countPass work q htab n).sum ≤ htab.sum + n := by
  induction n with
  | zero => intro q htab; exact Nat.le_refl _
  | succ n ih =>
    intro q htab
    have h1 := ih (q + 1) (htab.set (hashAt work q) (htab.getD (hashAt work q) 0 + 1))
    have h2 := sum_set_succ_le htab (hashAt work q)
    simp only [countPass]
    omega

theorem length_prefixSums (htab : Table) : ∀ t, (prefixSums t htab).length = htab.length := by
  induction htab with
  | nil => intro t; rfl
  | cons c cs ih => intro t; simp only [prefixSums, List.length_cons, ih]

theorem prefixSums_le (htab : Table) : ∀ t, ∀ x ∈ prefixSums t htab, x ≤ t + htab.sum := by
  induction htab with
  | nil => intro t x hx; cases hx
  | cons c cs ih =>
    intro t x hx
    rw [List.sum_cons]
    rcases List.mem_cons.1 hx with rfl | hx
    · omega
    · have := ih (t + c) x hx
      omega

theorem length_placePass (work : Memory) (lo n : Nat) : ∀ htab idx,
    (placePass work lo htab idx n).1.length = htab.length ∧ (placePass work lo htab idx n).2.length = idx.length := by
  induction n with
  | zero => intro htab idx; exact ⟨rfl, rfl⟩
  | succ n ih => intro htab idx; simp only [placePass, ih, List.length_set, and_self]

/-- Placing positions only lowers the cells. -/
theorem placePass_le (work : Memory) (lo : Nat) {b : Nat} (n : Nat) : ∀ htab idx, (∀ x ∈ htab, x ≤ b) →
    ∀ x ∈ (placePass work lo htab idx n).1, x ≤ b := by
  induction n with
  | zero => intro htab idx hb; exact hb
  | succ n ih =>
    intro htab idx hb
    refine ih _ _ fun x hx => ?_
    rcases List.mem_or_eq_of_mem_set hx with hx | rfl
    · exact hb x hx
    · exact (Nat.sub_le _ _).trans (getD_le_of_forall_le hb _)

/-- What INDEX_BUILD writes: an index of at most 8707 positions, `HTAB` and `IDX` of their sizes, no bucket beyond the index. -/
theorem indexBuild_holds {E : State → Prop} (s : State) (hi : s.cmp.idx.length = Config.idxSize) :
    (indexBuild s).Holds (fun _ t => ∃ htab idx nidx,
      t = { s with cmp := { s.cmp with htab := htab, idx := idx, nidx := nidx } } ∧
        htab.length = Config.nBucket ∧ idx.length = Config.idxSize ∧ nidx ≤ 8707 ∧ ∀ x ∈ htab, x ≤ nidx) E := by
  unfold indexBuild
  split_ifs with hw hn
  · trivial
  · trivial
  · obtain ⟨hlen, hilen⟩ := length_placePass s.cmp.work s.idxLo s.idxCount
      (prefixSums 0 (countPass s.cmp.work s.idxLo (Table.zeros Config.nBucket) s.idxCount)) s.cmp.idx
    refine ⟨_, _, _, rfl, ?_, hilen.trans hi, ?_, ?_⟩
    · rw [hlen, length_prefixSums, length_countPass, Table.zeros, List.length_replicate]
    · have hs := sum_countPass_le s.cmp.work s.idxCount s.idxLo (Table.zeros Config.nBucket)
      rw [Table.zeros, List.sum_replicate, smul_zero, Nat.zero_add] at hs
      exact hs.trans (Nat.le_of_not_lt hn)
    · refine placePass_le _ _ _ _ _ fun x hx => ?_
      simpa using prefixSums_le _ 0 x hx

end Sys2Proof.Machine
end

section
/-! SUPPORT. Every step of CMP keeps the invariant: COMPRESS_START, then one lemma per state of its machine (R231 to R239). -/

namespace Sys2Proof.Machine

variable {P : Config.Params} {T : Config.CodeTables} {E : State → Prop} {s : State}

theorem legalWsize_iff {w : Byte} : legalWsize w = true ↔ w = 4 ∨ w = 5 ∨ w = 6 := by
  simp [legalWsize, or_assoc]

/-- The window sizes are 1024, 2048 and 4096 (R34, R102). -/
theorem dsize_bounds (h : legalWsize s.hdr.wsize = true) : 1024 ≤ s.dsize ∧ s.dsize ≤ 4096 := by
  unfold State.dsize
  rcases legalWsize_iff.1 h with hw | hw | hw <;> rw [hw] <;> decide

/-! ### What the operations of a round keep -/

theorem CmpRunning.accOk (h : CmpRunning T s) : AccOk s := ⟨h.writer.nacc, h.writer.acc⟩

theorem CmpBusy.written (h : CmpBusy P s) : WrittenFrom s s := WrittenFrom.refl h.bounded h.cmp.writer.outPos

/-- Writing keeps a running CMP running, unless a push did not fit. -/
theorem CmpBusy.of_writtenFrom {r : State} (h : CmpBusy P r) (hs : WrittenFrom r s) (ha : AccOk s) (hstop : s.tc.stop = false) :
    CmpBusy P s := by
  have hb := h.bounded.of_writtenFrom hs ha
  have e : s = _ := hs.frame
  rw [e] at hb ⊢
  exact {
    bounded := hb
    running := h.running
    cmp := { h.cmp with
      stop := hstop
      writer := { h.cmp.writer with
        nacc := ha.nacc
        acc := ha.acc
        outPos := hs.outPos
        outb := hs.outb } } }

/-- The match registers are bound by their widths alone (R35). -/
theorem CmpBusy.setMatch (h : CmpBusy P s) {m : Nat × Nat} (h1 : m.1 ≤ 516) (h2 : m.2 < 2 ^ 12) :
    CmpBusy P (setMatch m s) where
  bounded := {
    memories := { h.bounded.memories with }
    widths := { h.bounded.widths with mLen := h1, mOff := h2 } }
  running := h.running
  cmp := { h.cmp with writer := { h.cmp.writer with } }

theorem CmpBusy.setNextMatch (h : CmpBusy P s) {m : Nat × Nat} (h1 : m.1 ≤ 516) (h2 : m.2 < 2 ^ 12) :
    CmpBusy P (setNextMatch m s) where
  bounded := {
    memories := { h.bounded.memories with }
    widths := { h.bounded.widths with nLen := h1, nOff := h2 } }
  running := h.running
  cmp := { h.cmp with writer := { h.cmp.writer with } }

/-- The cursor moved over `n` bytes (R235). -/
def State.advance (n : Nat) (s : State) : State := { s with cmp := { s.cmp with cur := s.cmp.cur + n } }

theorem Bounded.advance (h : Bounded P s) {n : Nat} (hn : s.cmp.cur + n ≤ s.cmp.loadEnd) : Bounded P (s.advance n) where
  memories := { h.memories with }
  widths := { h.widths with cur := hn.trans_lt h.widths.loadEnd }

/-- In `C_EMIT` the cursor may move up to the end of the loaded data. -/
theorem CmpBusy.advance (h : CmpBusy P s) (he : s.cmp.cstate = .emit) {n : Nat} (hn : s.cmp.cur + n ≤ s.cmp.loadEnd) :
    CmpBusy P (s.advance n) where
  bounded := h.bounded.advance hn
  running := h.running
  cmp := { h.cmp with
    writer := { h.cmp.writer with }
    curLo := h.cmp.curLo.trans (Nat.le_add_right _ _)
    curValid := h.cmp.curValid.trans (Nat.le_add_right _ _)
    curHi := by
      show s.cmp.cur + n ≤ s.validEnd
      rw [State.validEnd, if_neg (by rw [he]; decide)]
      exact hn
    analyze := fun ha => absurd (he.symm.trans ha) (by decide)
    shift := fun ha => absurd (he.symm.trans ha) (by decide)
    terminate := fun ha => absurd (he.symm.trans ha) (by decide) }

theorem holds_failIfStopped {Q : Unit → State → Prop} {f : State → Res Unit}
    (h1 : s.tc.stop = true → E (s.fail P .cmp .push)) (h2 : s.tc.stop = false → (f s).Holds Q E) : (failIfStopped P s f).Holds Q E := by
  unfold failIfStopped
  split_ifs with h
  · exact h1 h
  · exact h2 (by simpa using h)

/-! ### COMPRESS_START -/

/-- CMP before its first step, but for the two header bytes still to be written (R232, R341). -/
def State.cmpStarted (T : Config.CodeTables) (s : State) : State :=
  (buildCw T (initCmp (s.startCommand 1))).setCstate .staging

theorem CmpBusy.started (h : Bounded P s) (hl : legalWsize s.cr.wsizeCfg = true) : CmpBusy P (s.cmpStarted P.tables) := by
  have hd := dsize_bounds (s := initCmp s) hl
  have hbase : (initCmp s).base = (initCmp s).dsize + 516 := rfl
  have hs := h.startCommand 1
  exact {
    bounded := {
      memories := { hs.memories with }
      widths := { hs.widths with
        cur := by show (initCmp s).base < 2 ^ 14; omega
        nload := Nat.zero_le _
        loadEnd := by show (initCmp s).base < 2 ^ 14; omega
        scanEnd := by show (initCmp s).dsize < 2 ^ 14; omega
        round := Nat.zero_le _
        mLen := Nat.zero_le _
        mOff := Nat.two_pow_pos 12
        nLen := Nat.zero_le _
        nOff := Nat.two_pow_pos 12
        nidx := Nat.zero_le _
        nacc := Nat.zero_le _
        outPos := Nat.zero_le _ } }
    running := ⟨statusBusy_start, rfl⟩
    cmp := {
      stop := rfl
      wsize := hl
      litmode := rfl
      writer := {
        nacc := Nat.zero_le _
        acc := Nat.zero_lt_one
        outPos := Nat.zero_le _
        outb := hs.memories.outb
        cwv := rfl
        cwb := rfl }
      state := List.mem_cons_self
      curLo := Nat.le_add_right _ _
      curValid := Nat.le_refl _
      curHi := Nat.le_refl _
      position := Nat.le_add_left _ _
      fromStart := fun _ => (Nat.zero_add _).symm
      endSeen := fun hc => by cases hc
      staging := fun _ => rfl
      loaded := fun hc => absurd rfl hc
      analyze := fun hc => by cases hc
      index := fun hc => by cases hc
      shift := fun hc => by cases hc
      terminate := fun hc => by cases hc } }

/-- COMPRESS_START puts the two header bytes into the empty `OUTB`, so that neither is pushed (R232). -/
theorem compressStart_eq (T : Config.CodeTables) (s : State) : compressStart T (s.startCommand 1) =
    .ok () { s.cmpStarted T with cmp := { (s.cmpStarted T).cmp with
      outb := (s.cmp.outb.write 0 0).write 1 s.cr.wsizeCfg
      outPos := 2 } } := by
  unfold compressStart
  rw [storeByte_eq rfl (show 0 < 2047 by decide), Res.bind_ok, storeByte_eq rfl (show 1 < 2047 by decide)]
  rfl

/-- COMPRESS_START (R232). -/
theorem CmpBusy.compressStart (h : Bounded P s) (hl : legalWsize s.cr.wsizeCfg = true) :
    (compressStart P.tables (s.startCommand 1)).Holds (fun _ => CmpBusy P) E := by
  have hi := CmpBusy.started h hl
  rw [compressStart_eq]
  refine hi.of_writtenFrom ?_ ⟨Nat.zero_le _, Nat.zero_lt_one⟩ rfl
  exact { hi.written with
    frame := rfl
    outb := Memory.wf_write (Memory.wf_write h.memories.outb _ _) _ _
    outbIn := Memory.below_write _ (Memory.below_write _ h.memories.outbIn (by decide)) (by decide)
    outPos := by show 2 ≤ 2047; decide }

/-! ### The states of the machine -/

/-- STAGE before the input has ended: it ends in this round when the pull is short (R233). -/
theorem stage_eq (h : s.cmp.ended = false) : stage s = .ok () { s with
    tc := { s.tc with inCur := s.tc.inCur + pullCount s 4096 }
    cmp := { s.cmp with
      work := (pull s.cmp.work s.base 4096 s).1
      nload := pullCount s 4096
      ended := decide (pullCount s 4096 < 4096)
      loadEnd := s.base + pullCount s 4096
      scanEnd := s.dsize + pullCount s 4096 + (if decide (pullCount s 4096 < 4096) = true then 516 else 0)
      cstate := .analyze }
    xfers := .pull (pullCount s 4096) :: s.xfers } := by
  have he : (if pullCount s 4096 < 4096 then true else s.cmp.ended) = decide (pullCount s 4096 < 4096) := by
    rw [h]
    by_cases hn : pullCount s 4096 < 4096 <;> simp [hn]
  rw [← he]
  rfl

/-- `C_STAGING` (R233). -/
theorem CmpBusy.stage (h : CmpBusy P s) (hs : s.cmp.cstate = .staging) : (stage s).Holds (fun _ => CmpBusy P) E := by
  obtain ⟨hn, hin⟩ : pullCount s 4096 ≤ 4096 ∧ pullCount s 4096 ≤ s.tc.inLen - s.tc.inCur := pullCount_le s 4096
  have hshort : pullCount s 4096 < 4096 → pullCount s 4096 = s.tc.inLen - s.tc.inCur := by unfold pullCount; omega
  obtain ⟨hd1, hd2⟩ := dsize_bounds h.cmp.wsize
  have hbase : s.base = s.dsize + 516 := rfl
  have hv : s.validEnd = s.base := if_pos hs
  have hcur := h.cmp.curHi
  have hpos := h.cmp.position
  have hstart := h.cmp.fromStart
  have hic := h.bounded.widths.inCur
  rw [hv] at hcur hpos hstart
  rw [stage_eq (h.cmp.staging hs)]
  exact {
    bounded := {
      memories := { h.bounded.memories with
        work := (pull_read h.bounded.memories.work _ _ s).1
        workIn := copyCells_below _ _ _ _ _ h.bounded.memories.workIn (by omega) }
      widths := { h.bounded.widths with
        inCur := by show s.tc.inCur + pullCount s 4096 ≤ s.tc.inLen; omega
        nload := hn
        loadEnd := by show s.base + pullCount s 4096 < 2 ^ 14; omega
        scanEnd := by
          show s.dsize + pullCount s 4096 + (if decide (pullCount s 4096 < 4096) = true then 516 else 0) < 2 ^ 14
          split_ifs <;> omega } }
    running := h.running
    cmp := { h.cmp with
      writer := { h.cmp.writer with }
      state := by simp
      curHi := hcur.trans (Nat.le_add_right _ _)
      position := by
        show s.base + pullCount s 4096 ≤ s.tc.inCur + pullCount s 4096 + s.loValid
        omega
      fromStart := fun hlo => by
        have := hstart hlo
        show s.base + pullCount s 4096 = s.tc.inCur + pullCount s 4096 + s.loValid
        omega
      endSeen := fun hend => by
        have := hshort (of_decide_eq_true hend)
        show s.tc.inCur + pullCount s 4096 = s.tc.inLen
        omega
      staging := fun hc => by cases hc
      loaded := fun _ => ⟨rfl, rfl, fun hend => by
        have := of_decide_eq_false hend
        show pullCount s 4096 = 4096
        omega⟩
      analyze := fun _ => hcur
      index := fun hc => by cases hc
      shift := fun hc => by cases hc
      terminate := fun hc => by cases hc } }

/-- `C_ANALYZE` (R234). -/
theorem CmpBusy.analyze (h : CmpBusy P s) (hs : s.cmp.cstate = .analyze) : (analyze s).Holds (fun _ => CmpBusy P) E := by
  have hv : s.validEnd = s.cmp.loadEnd := if_neg (by rw [hs]; decide)
  refine (indexBuild_holds s h.bounded.memories.idx).bind ?_
  rintro _ _ ⟨htab, idx, nidx, rfl, hhtab, hidx, hn, hle⟩
  have hcur := h.cmp.curHi
  have hpos := h.cmp.position
  have hstart := h.cmp.fromStart
  rw [hv] at hcur hpos hstart
  exact {
    bounded := {
      memories := { h.bounded.memories with htab := hhtab, idx := hidx }
      widths := { h.bounded.widths with nidx := hn } }
    running := h.running
    cmp := { h.cmp with
      writer := { h.cmp.writer with }
      state := by simp
      curHi := hcur
      position := hpos
      fromStart := hstart
      staging := fun hc => by cases hc
      loaded := fun _ => h.cmp.loaded (by rw [hs]; decide)
      analyze := fun hc => by cases hc
      index := fun _ => hle
      shift := fun hc => by cases hc
      terminate := fun hc => by cases hc } }

/-- CHOOSE covers bytes up to the end of the loaded data (R205, R213). -/
theorem CmpBusy.choose (h : CmpBusy P s) (hs : s.cmp.cstate = .emit) :
    (choose P s).Holds (fun c t => CmpBusy P t ∧ t.cmp.cstate = .emit ∧ t.cmp.cur + c.2 ≤ t.cmp.loadEnd) E := by
  obtain ⟨hd1, hd2⟩ := dsize_bounds h.cmp.wsize
  have hmax : ∀ p, s.maxLenAt p ≤ 516 ∧ s.maxLenAt p ≤ s.cmp.loadEnd - p := fun p =>
    ⟨Nat.min_le_left _ _, Nat.min_le_right _ _⟩
  unfold Machine.choose
  split_ifs with h0
  · trivial
  · refine (holds_orFault _ s).bind ?_
    rintro m _ ⟨hm, rfl⟩
    obtain ⟨hm1, hm2⟩ := findMatch_within (by omega) hm
    have := hmax s.cmp.cur
    have ht := h.setMatch (m := m) (by omega) (by omega)
    dsimp only
    split_ifs with h2
    · refine (holds_orFault _ _).bind ?_
      rintro n _ ⟨hn, rfl⟩
      obtain ⟨hn1, hn2⟩ := findMatch_within (show 0 < (Machine.setMatch m s).dsize by show 0 < s.dsize; omega) hn
      have := hmax (s.cmp.cur + 1)
      have hu := ht.setNextMatch (m := n) (hn1.trans (hmax _).1) (hn2.trans_le (show s.dsize ≤ 2 ^ 12 from hd2))
      split_ifs
      · exact ⟨hu, hs, by show s.cmp.cur + 1 ≤ s.cmp.loadEnd; omega⟩
      · exact ⟨hu, hs, by show s.cmp.cur + m.1 ≤ s.cmp.loadEnd; omega⟩
    · exact ⟨ht, hs, by show s.cmp.cur + 1 ≤ s.cmp.loadEnd; omega⟩

/-- EMIT_STEP: a token is written and the cursor moves over it, or a push did not fit (R235, R239). -/
theorem CmpBusy.emitStep (h : CmpBusy P s) (hs : s.cmp.cstate = .emit) : (emitStep P s).Holds (fun _ => Inv P) (Inv P) := by
  refine (h.choose hs).bind ?_
  rintro c t ⟨ht, htc, hn⟩
  refine (ht.written.emitToken _ _ ht.cmp.accOk).bind ?_
  rintro _ u ⟨hu, ha⟩
  rw [← hu.frame.cur, ← hu.frame.loadEnd] at hn
  exact holds_failIfStopped
    (fun _ => ((ht.bounded.of_writtenFrom hu ha).advance hn).inv_fail _ _)
    (fun hstop => ((ht.of_writtenFrom hu ha hstop).advance (hu.frame.cstate.trans htc) hn).inv)

/-- What SHIFT and TERMINATE ask for is all there is to show when CMP leaves `C_EMIT` for one of them (R231). -/
theorem CmpBusy.leaveEmit (h : CmpBusy P s) (hs : s.cmp.cstate = .emit) {c : CState} (hc : c = .shift ∨ c = .terminate)
    (hshift : c = .shift → s.cmp.ended = false ∧ s.cmp.scanEnd ≤ s.cmp.cur)
    (hterm : c = .terminate → s.cmp.ended = true ∧ s.cmp.cur = s.cmp.loadEnd) : CmpBusy P (s.setCstate c) := by
  have hne : s.cmp.cstate ≠ .staging := by rw [hs]; decide
  have hv : s.validEnd = s.cmp.loadEnd := if_neg hne
  have hne' : c ≠ .staging := by rcases hc with rfl | rfl <;> decide
  have hv' : (s.setCstate c).validEnd = s.validEnd := (if_neg hne').trans hv.symm
  exact {
    bounded := ⟨{ h.bounded.memories with }, { h.bounded.widths with }⟩
    running := h.running
    cmp := { h.cmp with
      writer := { h.cmp.writer with }
      state := by rcases hc with rfl | rfl <;> simp
      curHi := hv'.symm ▸ h.cmp.curHi
      position := hv'.symm ▸ h.cmp.position
      fromStart := fun hlo => hv'.trans (h.cmp.fromStart hlo)
      staging := fun hst => absurd hst hne'
      loaded := fun _ => h.cmp.loaded hne
      analyze := fun ha => by rcases hc with rfl | rfl <;> cases ha
      index := fun hi => by rcases hc with rfl | rfl <;> cases hi
      shift := hshift
      terminate := hterm } }

/-- `C_EMIT`: a token, or the end of the round; where the input has ended the cursor then stands at `LOAD_END` (R231, R235,
R236). -/
theorem CmpBusy.emitState (h : CmpBusy P s) (hs : s.cmp.cstate = .emit) : (emitState P s).Holds (fun _ => Inv P) (Inv P) := by
  refine holds_failIfStopped (fun _ => h.bounded.inv_fail _ _) fun _ => ?_
  by_cases hcur : s.cmp.cur < s.cmp.scanEnd
  · rw [if_pos hcur]
    exact h.emitStep hs
  · rw [if_neg hcur]
    have hne : s.cmp.cstate ≠ .staging := by rw [hs]; decide
    have hv : s.validEnd = s.cmp.loadEnd := if_neg hne
    obtain ⟨hl, hsc, -⟩ := h.cmp.loaded hne
    have hhi := h.cmp.curHi
    refine CmpBusy.inv ?_
    cases he : s.cmp.ended with
    | true =>
      have hbase : s.base = s.dsize + 516 := rfl
      rw [he, if_pos rfl] at hsc
      exact h.leaveEmit hs (.inr rfl) (fun hc => by cases hc) (fun _ => ⟨he, by omega⟩)
    | false => exact h.leaveEmit hs (.inl rfl) (fun _ => ⟨he, Nat.le_of_not_lt hcur⟩) (fun hc => by cases hc)

/-- `C_SHIFT`: the valid bytes and the cursor move down by 4096, so the stream position stays (R237). -/
theorem CmpBusy.shift (h : CmpBusy P s) (hs : s.cmp.cstate = .shift) : (shift s).Holds (fun _ => CmpBusy P) E := by
  have hne : s.cmp.cstate ≠ .staging := by rw [hs]; decide
  have hv : s.validEnd = s.cmp.loadEnd := if_neg hne
  obtain ⟨hd1, hd2⟩ := dsize_bounds h.cmp.wsize
  obtain ⟨hl, hsc, hnl⟩ := h.cmp.loaded hne
  obtain ⟨hended, hscan⟩ := h.cmp.shift hs
  have hnl := hnl hended
  rw [hended, if_neg (by decide)] at hsc
  have hbase : s.base = s.dsize + 516 := rfl
  have hwork : s.workSize = s.base + 4096 := rfl
  have hlo : s.loValid = s.base - 4096 * s.cmp.round := rfl
  have hhi := h.cmp.curHi
  have hcv := h.cmp.curValid
  have hpos := h.cmp.position
  have hstart := h.cmp.fromStart
  have hround := h.bounded.widths.round
  rw [hv] at hhi hpos hstart
  have hmove : max 4096 s.loValid - 4096 + (s.workSize - max 4096 s.loValid) ≤ 8708 := by omega
  unfold Machine.shift
  split_ifs with hc
  · trivial
  · have hc : 4096 ≤ s.cmp.cur := Nat.le_of_not_lt hc
    exact {
      bounded := {
        memories := { h.bounded.memories with
          work := (moveBytes_frame _ _ _ _ h.bounded.memories.work).1
          workIn := moveBytes_below _ _ _ _ h.bounded.memories.workIn hmove }
        widths := { h.bounded.widths with
          cur := (Nat.sub_le _ _).trans_lt h.bounded.widths.cur
          round := Nat.min_le_right _ _ } }
      running := h.running
      cmp := { h.cmp with
        writer := { h.cmp.writer with }
        state := by simp
        curLo := by show s.dsize ≤ s.cmp.cur - 4096; omega
        curValid := by show s.base - 4096 * min (s.cmp.round + 1) 2 ≤ s.cmp.cur - 4096; omega
        curHi := by show s.cmp.cur - 4096 ≤ s.base; omega
        position := by show s.base ≤ s.tc.inCur + (s.base - 4096 * min (s.cmp.round + 1) 2); omega
        fromStart := fun hlo' => by
          have hlo' : 0 < s.base - 4096 * min (s.cmp.round + 1) 2 := hlo'
          have := hstart (by omega)
          show s.base = s.tc.inCur + (s.base - 4096 * min (s.cmp.round + 1) 2)
          omega
        staging := fun _ => hended
        loaded := fun hc => absurd rfl hc
        analyze := fun hc => by cases hc
        index := fun hc => by cases hc
        shift := fun hc => by cases hc
        terminate := fun hc => by cases hc } }

/-- `C_TERMINATE`: the command ends, in success or because a push did not fit (R238, R239). -/
theorem CmpBusy.terminate (h : CmpBusy P s) : (terminate P s).Holds (fun _ => Inv P) (Inv P) := by
  refine (h.written.emitEnd h.cmp.accOk).bind ?_
  rintro _ t ⟨ht, hta⟩
  refine (ht.finish hta).bind ?_
  rintro _ u ⟨hu, hua⟩
  have hb := h.bounded.of_writtenFrom hu hua
  exact holds_failIfStopped (fun _ => hb.inv_fail _ _) (fun hstop => hb.inv_complete hstop _)

/-- Every step of CMP keeps the invariant. -/
theorem CmpBusy.cmpStep (h : CmpBusy P s) : (cmpStep P s).Holds (fun _ => Inv P) (Inv P) := by
  unfold Machine.cmpStep
  cases hs : s.cmp.cstate with
  | idle => trivial
  | staging => exact (h.stage hs).mono fun _ _ => CmpBusy.inv
  | analyze => exact (h.analyze hs).mono fun _ _ => CmpBusy.inv
  | emit => exact h.emitState hs
  | shift => exact (h.shift hs).mono fun _ _ => CmpBusy.inv
  | terminate => exact h.terminate
  | done => trivial
  | fail => trivial

end Sys2Proof.Machine
end

section
/-! SUPPORT. Every step of DEC keeps the invariant: the header, each kind of token row, the two flushes (R261 to R271). -/

namespace Sys2Proof.Machine

variable {P : Config.Params} {E : State → Prop} {r s : State}

/-! ### The header (R262) -/

theorem DecBusy.readFrom (h : DecBusy P s) : ReadFrom s s := ReadFrom.refl h.bounded h.dec.reader

/-- Taking a header byte leaves DEC in `D_HEADER`. -/
theorem DecBusy.of_headerByte (h : DecBusy P r) (hd : r.dec.dstate = .header) (hs : ReadFrom r s)
    (hn : s.dec.nbits = r.dec.nbits) : DecBusy P s := by
  have hb := h.bounded.of_readFrom hs
  have hr := hs.reader
  have e : s = _ := hs.frame
  obtain ⟨hn0, hrest⟩ := h.dec.header hd
  rw [e] at hb hr hn ⊢
  exact {
    bounded := hb
    running := h.running
    dec := { h.dec with
      reader := hr
      header := fun _ => ⟨hn.trans hn0, hrest⟩
      tables := fun hne => absurd hd hne } }

/-- HDR0 keeps its byte. -/
theorem DecBusy.takeByteZero (h : DecBusy P s) (hd : s.dec.dstate = .header) (b : Byte) :
    NextHolds (DecBusy P) (takeByteZero b s) := {
  bounded := ⟨{ h.bounded.memories with }, { h.bounded.widths with }⟩
  running := h.running
  dec := { h.dec with
    reader := { h.dec.reader with }
    tables := fun hne => absurd hd hne } }

/-- An accepted header: the tables are built and nothing has been written yet. -/
theorem DecBusy.acceptHeader (h : DecBusy P s) (hd : s.dec.dstate = .header) {w : Byte} (hl : s.dec.hdrByte0.getD 0 = 0)
    (hw : legalWsize w = true) : DecBusy P (acceptHeader P.tables (loadHeader w s)) := by
  obtain ⟨-, hout, hoff⟩ := h.dec.header hd
  exact {
    bounded := ⟨{ h.bounded.memories with }, { h.bounded.widths with
      wposLo := Nat.le_refl _
      wposHi := by show 4096 ≤ 8709; decide
      hist := Nat.zero_le _ }⟩
    running := h.running
    dec := {
      stop := h.dec.stop
      reader := { h.dec.reader with }
      state := by simp
      header := fun hc => by cases hc
      tables := fun _ => {
        wsize := hw
        litmode := hl
        lenj := rfl
        distj := rfl
        hdr := rfl
        hist := by
          show 0 = min (s.tc.outCur + (4096 - 4096)) 4096
          rw [hout]
          rfl
        pushed := by
          show s.tc.outCur % 4096 = 0
          rw [hout] }
      copy := fun hc => by cases hc
      offset := hoff
      wpos := fun _ => by show 4096 ≤ 8191; decide } }

/-- HDR1: both checks, then the tables. -/
theorem DecBusy.checkHeader (h : DecBusy P s) (hd : s.dec.dstate = .header) (w : Byte) :
    NextHolds (Inv P) (checkHeader P w s) := by
  have hb : Bounded P (loadHeader w s) := ⟨{ h.bounded.memories with }, { h.bounded.widths with }⟩
  unfold Machine.checkHeader
  dsimp only
  split_ifs with hl hw
  · exact hb.inv_fail _ _
  · exact hb.inv_fail _ _
  · exact (h.acceptHeader hd (by simpa using hl) (by simpa using hw)).inv

/-- `D_HEADER` (R262). -/
theorem DecBusy.fetchHeader (h : DecBusy standard s) (hd : s.dec.dstate = .header) :
    (fetchHeader standard s).Holds (fun i t => NextHolds (Inv standard) (exec i t)) (Inv standard) := by
  refine h.readFrom.nextByte.bind ?_
  rintro o t ⟨ht, hn⟩
  have hb := h.of_headerByte hd ht hn
  have htd : t.dec.dstate = .header := (congrArg (fun x => x.dec.dstate) ht.frame).trans hd
  cases o with
  | none => exact hb.bounded.inv_fail _ _
  | some b =>
    show NextHolds (Inv standard) (exec (if t.dec.hdrByte0.isNone then .hdr0 b else .hdr1 b) t)
    split_ifs
    · exact (hb.takeByteZero htd b).mono fun _ => DecBusy.inv
    · exact hb.checkHeader htd b

/-! ### The token rows (R263 to R268) -/

/-- What holds of DEC where a row after the header is executed, whichever row it is. -/
structure RowReady (P : Config.Params) (s : State) : Prop where
  bounded : Bounded P s
  running : s.running .dec
  stop    : s.tc.stop = false
  reader  : ReaderOk s
  tables  : DecTables P.tables s
  wpos    : s.dec.wpos ≤ 8191

theorem DecBusy.rowReady (h : DecBusy P s) (hh : s.dec.dstate ≠ .header) (hf : s.dec.dstate ≠ .flush) : RowReady P s :=
  ⟨h.bounded, h.running, h.dec.stop, h.dec.reader, h.dec.tables hh, h.dec.wpos hf⟩

theorem RowReady.readFrom (h : RowReady P s) : ReadFrom s s := ReadFrom.refl h.bounded h.reader

theorem RowReady.of_readFrom (h : RowReady P r) (hs : ReadFrom r s) : RowReady P s := by
  have hb := h.bounded.of_readFrom hs
  have hr := hs.reader
  have e : s = _ := hs.frame
  rw [e] at hb hr ⊢
  exact { h with bounded := hb, reader := hr, tables := { h.tables with } }

theorem RowReady.setDstate (h : RowReady P s) (d : DState) : RowReady P (s.setDstate d) where
  bounded := ⟨{ h.bounded.memories with }, { h.bounded.widths with }⟩
  running := h.running
  stop := h.stop
  reader := { h.reader with }
  tables := { h.tables with }
  wpos := h.wpos

/-- Of a state after a row nothing is left to show but its own bounds and those of its FSM state. -/
theorem RowReady.decBusy (h : RowReady P s) (hd : s.dec.dstate ∈ [.token, .copy, .flush, .eof])
    (hc : s.dec.dstate = .copy → 2 ≤ s.dec.tLen ∧ s.dec.tLen ≤ 518) (ho : s.dec.offNext = decide (s.dec.dstate = .copy)) :
    DecBusy P s where
  bounded := h.bounded
  running := h.running
  dec := {
    stop := h.stop
    reader := h.reader
    state := List.mem_cons_of_mem _ hd
    header := fun hh => by rw [hh] at hd; simp at hd
    tables := fun _ => h.tables
    copy := hc
    offset := ho
    wpos := fun _ => h.wpos }

theorem RowReady.execEnd (h : RowReady P s) (ho : s.dec.offNext = false) : NextHolds (DecBusy P) (execEnd s) :=
  (h.setDstate .eof).decBusy (by simp) (fun hc => by cases hc) ho

theorem RowReady.setCopyLength (h : RowReady P s) {c e : Nat} (hlen : copyLength P.tables c e ≤ 518) :
    NextHolds (DecBusy P) (setCopyLength P c e s) :=
  RowReady.decBusy {
    bounded := ⟨{ h.bounded.memories with }, { h.bounded.widths with tLen := hlen }⟩
    running := h.running
    stop := h.stop
    reader := { h.reader with }
    tables := { h.tables with }
    wpos := h.wpos } (by simp) (fun _ => ⟨Nat.le_add_left _ _, hlen⟩) rfl

/-- `n` bytes appended at the write cursor, the cursor and `HIST` moved over them: what LIT and COPY_EXEC share (R264, R268). -/
theorem RowReady.append (h : RowReady P s) {n src : Nat} {win : Memory} (hn : n ≤ 518) (hw : win.wf = true)
    (hi : win.below P.decWinSize = true) (hsrc : src ≤ 8708) : DecBusy P { s with dec := { s.dec with
      win := win
      wpos := s.dec.wpos + n
      src := src
      hist := min (s.dec.hist + n) Config.decHist
      dstate := .flush
      offNext := false } } := by
  have hlo := h.bounded.widths.wposLo
  have hhi := h.wpos
  have hh := h.tables.hist
  exact {
    bounded := {
      memories := { h.bounded.memories with win := hw, winIn := hi }
      widths := { h.bounded.widths with
        wposLo := by show 4096 ≤ s.dec.wpos + n; omega
        wposHi := by show s.dec.wpos + n ≤ 8709; omega
        hist := Nat.min_le_right _ _
        src := hsrc } }
    running := h.running
    dec := {
      stop := h.stop
      reader := { h.reader with }
      state := by simp
      header := fun hc => by cases hc
      tables := fun _ => { h.tables with
        hist := by
          show min (s.dec.hist + n) 4096 = min (s.tc.outCur + (s.dec.wpos + n - 4096)) 4096
          omega }
      copy := fun hc => by cases hc
      offset := rfl
      wpos := fun hc => absurd rfl hc } }

theorem RowReady.storeLiteral (h : RowReady P s) (ho : s.dec.offNext = false) (b : Byte) :
    NextHolds (DecBusy P) (storeLiteral P b s) := by
  unfold Machine.storeLiteral
  split_ifs with hw
  · trivial
  · have ha := h.append (n := 1) (by decide) (Memory.wf_write h.bounded.memories.win s.dec.wpos b)
      (Memory.below_write b h.bounded.memories.winIn (Nat.lt_of_not_le hw)) h.bounded.widths.src
    rw [← ho] at ha
    exact ha

/-- A DIST row of one of the 64 classes: the copy, or DIST_BEFORE_START (R267, R268). -/
theorem RowReady.copyFromOffset (h : RowReady P s) {c : Nat} (hc : c < 64) (low : Low) :
    NextHolds (Inv P) (copyFromOffset P c low s) := by
  have ht : RowReady P { s with dec := { s.dec with tOff := offsetOf c low, offNext := false } } := {
    bounded := ⟨{ h.bounded.memories with }, { h.bounded.widths with tOff := offsetOf_lt hc low }⟩
    running := h.running
    stop := h.stop
    reader := { h.reader with }
    tables := { h.tables with }
    wpos := h.wpos }
  have hlen := h.bounded.widths.tLen
  have hw := h.wpos
  unfold Machine.copyFromOffset
  dsimp only
  split_ifs with hh
  · exact ht.bounded.inv_fail _ _
  · unfold copyExec
    dsimp only
    split_ifs with hr
    · trivial
    · refine (ht.append hlen (moveBytes_frame _ _ _ _ h.bounded.memories.win).1
        (moveBytes_below _ _ _ _ h.bounded.memories.winIn (by omega)) ?_).inv
      omega

/-! ### Fetching a token row -/

/-- In `T_PKWARE` every class's symbols lie below 518 (R171, R172 W4). -/
theorem lenBase_add_two_pow_le : ∀ c < 16, lenBase tPkware c + 2 ^ lenExtra tPkware c ≤ 518 := by decide

/-- A copy length of the table is at most 518: 517 is END (R106, R108). -/
theorem copyLength_le {c e : Nat} (hc : c < 16) (he : e < 2 ^ lenExtra tPkware c) (h : lenBase tPkware c + e ≠ 517) :
    copyLength tPkware c (e % 256) ≤ 518 := by
  have := lenBase_add_two_pow_le c hc
  have := Nat.mod_le e 256
  unfold copyLength
  omega

theorem SameButReader.offNext (h : SameButReader r s) : s.dec.offNext = r.dec.offNext := congrArg (fun x => x.dec.offNext) h

section Fetch

variable (h : RowReady standard s)
include h

theorem RowReady.inv_starved (t : State) (ht : ReadFrom s t) : Inv standard (t.fail standard .dec .starved) :=
  (h.bounded.of_readFrom ht).inv_fail _ _

theorem RowReady.fetchLiteral (ho : s.dec.offNext = false) :
    (fetchLiteral standard s).Holds (fun i t => NextHolds (Inv standard) (exec i t)) (Inv standard) := by
  refine (h.readFrom.readBits h.inv_starved 8).bind ?_
  rintro b t ⟨ht, -⟩
  exact ((h.of_readFrom ht).storeLiteral (ht.frame.offNext.trans ho) _).mono fun _ => DecBusy.inv

theorem RowReady.fetchLength (ho : s.dec.offNext = false) :
    (fetchLength standard s).Holds (fun i t => NextHolds (Inv standard) (exec i t)) (Inv standard) := by
  refine (h.readFrom.decodeLen h.inv_starved).bind ?_
  rintro ⟨c, e⟩ t ⟨ht, he⟩
  have hrow := h.of_readFrom ht
  dsimp only
  cases hi : lenInstr standard.tables c e with
  | none => trivial
  | some i =>
    rcases lenInstr_eq_some hi with ⟨-, rfl⟩ | ⟨h517, hc, hexec⟩
    · exact (hrow.execEnd (ht.frame.offNext.trans ho)).mono fun _ => DecBusy.inv
    · show NextHolds (Inv standard) (exec i t)
      rw [hexec]
      exact (hrow.setCopyLength (copyLength_le hc he h517)).mono fun _ => DecBusy.inv

theorem RowReady.fetchOffset :
    (fetchOffset standard s).Holds (fun i t => NextHolds (Inv standard) (exec i t)) (Inv standard) := by
  refine (h.readFrom.decodeOff h.inv_starved _).bind ?_
  rintro ⟨c, v⟩ t ht
  dsimp only
  cases hi : (lowOf (lowWidth t.dec.tLen t.hdr.wsize) v).bind (distInstr c) with
  | none => trivial
  | some i =>
    obtain ⟨low, -, hrow⟩ := Option.bind_eq_some_iff.1 hi
    obtain ⟨hc, hexec⟩ := distInstr_eq_some hrow
    show NextHolds (Inv standard) (exec i t)
    rw [hexec]
    exact (h.of_readFrom ht).copyFromOffset hc low

theorem RowReady.fetchToken (ho : s.dec.offNext = false) :
    (fetchToken standard s).Holds (fun i t => NextHolds (Inv standard) (exec i t)) (Inv standard) := by
  refine (h.readFrom.readBits h.inv_starved 1).bind ?_
  rintro sel t ⟨ht, -⟩
  have hrow := h.of_readFrom ht
  have hot := ht.frame.offNext.trans ho
  split_ifs
  · exact (hrow.setDstate .literal).fetchLiteral hot
  · exact (hrow.setDstate .copy).fetchLength hot

end Fetch

/-! ### The flushes (R270, R271) -/

/-- A push out of `WIN`: the bounds hold whether or not it fits; where it fits, only the output has changed. -/
theorem DecBusy.pushWin (h : DecBusy P s) (n : Nat) :
    (push s.dec.win P.decWinSize .winRange Config.decHist n s).Holds (fun _ t =>
      Bounded P t ∧ (t.tc.stop = false → ∃ out xfers, t = { s with
        tc := { s.tc with outCur := s.tc.outCur + n }
        hostOut := out
        xfers := xfers })) E := by
  rcases push_cases s.dec.win P.decWinSize .winRange Config.decHist n s with
    ⟨hs, -⟩ | ⟨-, -, he⟩ | ⟨-, -, -, he⟩ | ⟨-, -, hfit, he⟩
  · exact absurd (h.dec.stop.symm.trans hs) (by decide)
  · rw [he]; trivial
  · rw [he]
    exact ⟨⟨{ h.bounded.memories with }, { h.bounded.widths with }⟩, fun hc => by cases hc⟩
  · rw [he]
    exact ⟨{
      memories := { h.bounded.memories with hostOut := (copyCells_spec _ _ _ _ _ h.bounded.memories.hostOut).1 }
      widths := { h.bounded.widths with outCur := hfit } }, fun _ => ⟨_, _, rfl⟩⟩

/-- FLUSH_IF_FULL: 4096 bytes leave and the rest slides down, so `HIST` stays what the output so far says (R269, R270). -/
theorem DecBusy.flushIfFull (h : DecBusy P s) (hd : s.dec.dstate = .flush) :
    (flushIfFull P s).Holds (fun _ => Inv P) (Inv P) := by
  have htab := h.dec.tables (by rw [hd]; decide)
  have hoff : s.dec.offNext = false := by rw [h.dec.offset, hd]; rfl
  have hhi := h.bounded.widths.wposHi
  unfold Machine.flushIfFull
  split_ifs with h1 h2
  · have h1 : s.dec.wpos < 8192 := h1
    have hrow : RowReady P s := ⟨h.bounded, h.running, h.dec.stop, h.dec.reader, htab, by omega⟩
    exact ((hrow.setDstate .token).decBusy (by simp) (fun hc => by cases hc) hoff).inv
  · trivial
  · have h1 : 8192 ≤ s.dec.wpos := Nat.le_of_not_lt h1
    refine (h.pushWin 4096).bind ?_
    rintro _ t ⟨ht, hfit⟩
    split_ifs with hstop
    · exact ht.inv_fail _ _
    · obtain ⟨out, xfers, rfl⟩ := hfit (by simpa using hstop)
      have hslide : s.dec.hist = min (s.tc.outCur + 4096 + (s.dec.wpos - 4096 - 4096)) 4096 := by
        rw [htab.hist]
        omega
      have hp := htab.pushed
      refine DecBusy.inv (P := P) ?_
      dsimp only
      -- The new cursor by a name of its own, so that no check of a field evaluates the difference.
      generalize hn : s.dec.wpos - Config.decHist = n
      have hn : s.dec.wpos - 4096 = n := hn
      rw [hn] at hslide
      refine RowReady.decBusy ?_ (by simp) (fun hc => by cases hc) hoff
      exact {
        bounded := {
          memories := { ht.memories with
            win := (moveBytes_frame _ _ _ _ h.bounded.memories.win).1
            winIn := moveBytes_below _ _ _ _ h.bounded.memories.winIn (by omega) }
          widths := { ht.widths with
            wposLo := by show 4096 ≤ n; omega
            wposHi := by show n ≤ 8709; omega } }
        running := h.running
        stop := h.dec.stop
        reader := { h.dec.reader with }
        tables := { htab with
          hist := hslide
          pushed := by
            show (s.tc.outCur + 4096) % 4096 = 0
            omega }
        wpos := by show n ≤ 8191; omega }

/-- FINAL_FLUSH: the command ends, in success or because the rest did not fit (R271). -/
theorem DecBusy.finalFlush (h : DecBusy P s) : (finalFlush P s).Holds (fun _ => Inv P) (Inv P) := by
  unfold Machine.finalFlush
  split_ifs
  · exact h.bounded.inv_complete h.dec.stop _
  · refine (h.pushWin _).bind ?_
    rintro _ t ⟨ht, -⟩
    split_ifs with hstop
    · exact ht.inv_fail _ _
    · exact ht.inv_complete (by simpa using hstop) _

/-! ### The step of DEC, and DECOMPRESS -/

/-- Every step of DEC keeps the invariant. -/
theorem DecBusy.decFetch (h : DecBusy standard s) : (decFetch standard s).Runs (Inv standard) := by
  have ho := h.dec.offset
  unfold Machine.decFetch
  cases hd : s.dec.dstate with
  | idle => trivial
  | header => exact (h.fetchHeader hd).runs
  | token =>
    rw [hd] at ho
    exact ((h.rowReady (by rw [hd]; decide) (by rw [hd]; decide)).fetchToken ho).runs
  | literal => exact absurd h.dec.state (by rw [hd]; decide)
  | copy =>
    rw [hd] at ho
    have ho : s.dec.offNext = true := ho
    rw [if_pos ho]
    exact (h.rowReady (by rw [hd]; decide) (by rw [hd]; decide)).fetchOffset.runs
  | flush => exact (h.flushIfFull hd).outcome
  | eof => exact h.finalFlush.outcome
  | done => trivial
  | fail => trivial

/-- DECOMPRESS starts with an empty reader and nothing written (R295, R341). -/
theorem DecBusy.init (h : Bounded P s) : DecBusy P (initDec (s.startCommand 2)) := by
  have hs := h.startCommand 2
  exact {
    bounded := ⟨{ hs.memories with }, { hs.widths with
      nbits := Nat.zero_le _
      inPos := Nat.zero_le _
      inFill := Nat.zero_le _
      wposLo := Nat.le_refl _
      wposHi := by show 4096 ≤ 8709; decide
      hist := Nat.zero_le _
      tLen := Nat.zero_le _
      tOff := Nat.two_pow_pos 12
      src := Nat.zero_le _ }⟩
    running := ⟨statusBusy_start, rfl⟩
    dec := {
      stop := rfl
      reader := {
        nbits := Nat.zero_le _
        bitbuf := Nat.zero_lt_one
        inPos := Nat.le_refl _
        inFill := Nat.zero_le _
        taken := Nat.le_refl _
        eof := fun hc => by cases hc
        inb := hs.memories.inb }
      state := List.mem_cons_self
      header := fun _ => ⟨rfl, rfl, rfl⟩
      tables := fun hc => absurd rfl hc
      copy := fun hc => by cases hc
      offset := rfl
      wpos := fun _ => by show 4096 ≤ 8191; decide } }

end Sys2Proof.Machine
end

section
/-! SUPPORT. The invariant is kept by the step of every agent. -/

namespace Sys2Proof.Machine

/-- COMPRESS starts CMP, or takes BAD_WSIZE_CFG, or is refused. -/
theorem Bounded.runCompress {P : Config.Params} {s : State} (h : Bounded P s) : NextHolds (Inv P) (runCompress P s) := by
  rcases runCompress_cases P s with ⟨-, he⟩ | ⟨-, -, he⟩ | ⟨-, -, hl, he⟩ | ⟨-, -, -, he⟩ <;> rw [he]
  · trivial
  · trivial
  · exact ((CmpBusy.compressStart h hl).mono fun _ _ => CmpBusy.inv).outcome
  · exact (h.startCommand 1).inv_fail _ _

/-- DECOMPRESS starts DEC, or is refused. -/
theorem Bounded.runDecompress {P : Config.Params} {s : State} (h : Bounded P s) : NextHolds (Inv P) (runDecompress P s) := by
  rcases runDecompress_cases P s with ⟨-, he⟩ | ⟨-, -, he⟩ | ⟨-, -, he⟩ <;> rw [he]
  · trivial
  · trivial
  · exact (DecBusy.init h).inv

/-- A step between commands keeps the invariant: it does nothing, or executes the command in `CMD` (R293, R296). -/
theorem Inv.step_of_idle {s : State} (h : Inv standard s) (hb : s.busy = false) : NextHolds (Inv standard) (step s) := by
  rw [step_idle hb]
  unfold idleFetch
  match s.cr.cmd.toNat with
  | 0 => exact h
  | 1 => exact h.bounded.runCompress
  | 2 => exact h.bounded.runDecompress
  | _ + 3 => trivial

theorem Inv.step {s : State} (h : Inv standard s) : NextHolds (Inv standard) (step s) := by
  rcases h.cases with hb | hc | hd
  · exact h.step_of_idle hb
  · rw [step_cmp hc.running]
    exact hc.cmpStep.outcome
  · exact nextHolds_step_dec hd.running hd.decFetch

/-- Settles O46: a state of the invariant belongs to one of three agents, and the step of each keeps it. -/
theorem stepKeepsTheInvariant : Obligations.StepKeepsTheInvariant := by
  intro s t hs hst
  have h := hs.step
  rw [hst] at h
  exact h

end Sys2Proof.Machine
end

section
/-! SUPPORT. Fields of a bit string (R12, R71): what taking or dropping its first bits leaves of the number it was written from. -/

namespace Sys2Proof

theorem bitsOfNat_add (k n : Nat) : ∀ v, bitsOfNat (k + n) v = bitsOfNat k v ++ bitsOfNat n (v / 2 ^ k) := by
  induction k with
  | zero => intro v; rw [Nat.zero_add, pow_zero, Nat.div_one]; rfl
  | succ k ih =>
    intro v
    rw [Nat.succ_add, bitsOfNat, bitsOfNat, ih, Nat.div_div_eq_div_mul, ← pow_succ', List.cons_append]

/-- The `n` low bits of a number are those of its residue. -/
theorem bitsOfNat_mod (n v : Nat) : bitsOfNat n (v % 2 ^ n) = bitsOfNat n v := by
  have h := bitsOfNat_natOfBits (bitsOfNat n v)
  rwa [length_bitsOfNat, natOfBits_bitsOfNat] at h

/-- One field written above another. -/
theorem bitsOfNat_append {k v : Nat} (hv : v < 2 ^ k) (n w : Nat) :
    bitsOfNat k v ++ bitsOfNat n w = bitsOfNat (k + n) (2 ^ k * w + v) := by
  rw [bitsOfNat_add, Nat.mul_add_div (Nat.two_pow_pos k), Nat.div_eq_of_lt hv, Nat.add_zero, ← bitsOfNat_mod k (2 ^ k * w + v),
    Nat.mul_add_mod, Nat.mod_eq_of_lt hv]

theorem take_bitsOfNat {k n : Nat} (hk : k ≤ n) (v : Nat) : (bitsOfNat n v).take k = bitsOfNat k v := by
  rw [← Nat.add_sub_cancel' hk, bitsOfNat_add, List.take_left' (length_bitsOfNat k v)]

theorem drop_bitsOfNat {k n : Nat} (hk : k ≤ n) (v : Nat) : (bitsOfNat n v).drop k = bitsOfNat (n - k) (v / 2 ^ k) := by
  conv_lhs => rw [← Nat.add_sub_cancel' hk, bitsOfNat_add]
  rw [List.drop_left' (length_bitsOfNat k v)]

/-- Any number of first bits, read back: zeros stand for bits past the end. -/
theorem natOfBits_take_bitsOfNat {n v : Nat} (hv : v < 2 ^ n) (k : Nat) : natOfBits ((bitsOfNat n v).take k) = v % 2 ^ k := by
  rcases Nat.le_total k n with h | h
  · rw [take_bitsOfNat h, natOfBits_bitsOfNat]
  · rw [List.take_of_length_le ((length_bitsOfNat n v).trans_le h), natOfBits_bitsOfNat, Nat.mod_eq_of_lt hv,
      Nat.mod_eq_of_lt (hv.trans_le (Nat.pow_le_pow_right (by decide) h))]

theorem takeBits_eq_some {k v : Nat} {bits rest : List Bool} :
    takeBits k bits = some (v, rest) ↔ k ≤ bits.length ∧ v = natOfBits (bits.take k) ∧ rest = bits.drop k := by
  unfold takeBits
  split_ifs with h
  · simp; omega
  · simp only [Option.some.injEq, Prod.mk.injEq]
    exact ⟨fun ⟨h1, h2⟩ => ⟨Nat.le_of_not_lt h, h1.symm, h2.symm⟩, fun ⟨_, h1, h2⟩ => ⟨h1.symm, h2.symm⟩⟩

end Sys2Proof
end

section
/-! SUPPORT. Runs of bytes of a memory (R13, R74). -/

namespace Sys2Proof.Machine

theorem length_loadBytes (m : Memory) (n : Nat) : ∀ a, (loadBytes m a n).length = n := by
  induction n with
  | zero => intro a; rfl
  | succ n ih => intro a; rw [loadBytes, List.length_cons, ih]

theorem loadBytes_add (m : Memory) (k n : Nat) : ∀ a, loadBytes m a (k + n) = loadBytes m a k ++ loadBytes m (a + k) n := by
  induction k with
  | zero => intro a; rw [Nat.zero_add]; rfl
  | succ k ih => intro a; rw [Nat.succ_add, loadBytes, loadBytes, ih, List.cons_append, Nat.add_right_comm, Nat.add_assoc]

theorem loadBytes_congr {m m' : Memory} (n : Nat) : ∀ a a', (∀ i < n, m.read (a + i) = m'.read (a' + i)) →
    loadBytes m a n = loadBytes m' a' n := by
  induction n with
  | zero => intro a a' _; rfl
  | succ n ih =>
    intro a a' h
    rw [loadBytes, loadBytes, ih (a + 1) (a' + 1) fun i hi => ?_]
    · exact congrArg (· :: _) (h 0 (Nat.succ_pos n))
    · have := h (i + 1) (Nat.succ_lt_succ hi)
      rwa [← Nat.add_assoc, ← Nat.add_assoc, Nat.add_right_comm a, Nat.add_right_comm a'] at this

/-- What the byte loop has copied reads back as it stood in the source. -/
theorem loadBytes_copyCells {src dst : Memory} (w : dst.wf = true) (sa da n : Nat) :
    loadBytes (copyCells src sa dst da n) da n = loadBytes src sa n := by
  refine loadBytes_congr n _ _ fun i hi => ?_
  rw [(copyCells_spec src n sa dst da w).2, if_pos (by omega), Nat.add_sub_cancel_left]

end Sys2Proof.Machine
end

section
/-! SUPPORT. The read side on the stream (R31, R150 to R155): which bits each operation leaves to be read, and how far the stream
position moves. -/

namespace Sys2Proof.Machine

variable {s t u : State}

/-! ### Bytes (R151) -/

/-- `t` is `s` after the bytes `bs` were taken from the stream, with `BITBUF` as it was. -/
structure TookBytes (bs : List Byte) (s t : State) : Prop where
  frame  : SameButReader s t
  reader : ReaderOk t
  rest   : s.restBytes = bs ++ t.restBytes
  taken  : t.bytesTaken = s.bytesTaken + bs.length
  nbits  : t.dec.nbits = s.dec.nbits
  bitbuf : t.dec.bitbuf = s.dec.bitbuf

theorem TookBytes.trans {bs cs : List Byte} (h : TookBytes bs s t) (h' : TookBytes cs t u) : TookBytes (bs ++ cs) s u where
  frame := h.frame.trans h'.frame
  reader := h'.reader
  rest := by rw [h.rest, h'.rest, List.append_assoc]
  taken := by rw [h'.taken, h.taken, List.length_append, Nat.add_assoc]
  nbits := h'.nbits.trans h.nbits
  bitbuf := h'.bitbuf.trans h.bitbuf

/-- A refill moves bytes from `HOST_IN` to `INB` and takes none. -/
theorem ReaderOk.refill (h : ReaderOk s) (hp : s.dec.inPos = s.dec.inFill) : TookBytes [] s (refill s) where
  frame := rfl
  reader := {
    nbits := h.nbits
    bitbuf := h.bitbuf
    inPos := Nat.zero_le _
    inFill := (pullCount_le s Config.inbSize).1
    taken := Nat.le_add_left _ _
    eof := fun he => by
      have hl := (h.eof he).2
      have hn : pullCount s Config.inbSize = 0 := by simp only [pullCount]; omega
      exact ⟨hn.symm, Nat.le_add_right_of_le hl⟩
    inb := (pull_read h.inb 0 Config.inbSize s).1 }
  rest := by
    have hn := (pullCount_le s Config.inbSize).2
    show loadBytes s.dec.inb s.dec.inPos (s.dec.inFill - s.dec.inPos) ++ loadBytes s.hostIn s.tc.inCur (s.tc.inLen - s.tc.inCur) =
      loadBytes (copyCells s.hostIn s.tc.inCur s.dec.inb 0 (pullCount s Config.inbSize)) 0 (pullCount s Config.inbSize) ++
        loadBytes s.hostIn (s.tc.inCur + pullCount s Config.inbSize) (s.tc.inLen - (s.tc.inCur + pullCount s Config.inbSize))
    rw [hp, Nat.sub_self, loadBytes, List.nil_append, loadBytes_copyCells h.inb, ← loadBytes_add]
    congr 1
    omega
  taken := by
    show s.tc.inCur + pullCount s Config.inbSize - (pullCount s Config.inbSize - 0) = s.tc.inCur - (s.dec.inFill - s.dec.inPos) + 0
    omega
  nbits := rfl
  bitbuf := rfl

/-- The byte at `IN_POS` is the next of the stream. -/
theorem ReaderOk.takeInb (h : ReaderOk s) (hp : s.dec.inPos ≠ s.dec.inFill) :
    ∃ b t, takeInb s = .ok (some b) t ∧ TookBytes [b] s t := by
  have hlt : s.dec.inPos < s.dec.inFill := Nat.lt_of_le_of_ne h.inPos hp
  have hfill := h.inFill
  have htaken := h.taken
  unfold Machine.takeInb
  rw [if_neg (by show ¬ 2048 ≤ s.dec.inPos; omega)]
  refine ⟨_, _, rfl, {
    frame := rfl
    reader := { h with inPos := hlt, eof := fun he => absurd (h.eof he).1 hp }
    rest := ?_
    taken := ?_
    nbits := rfl
    bitbuf := rfl }⟩
  · obtain ⟨n, hn⟩ : ∃ n, s.dec.inFill - s.dec.inPos = n + 1 := ⟨s.dec.inFill - s.dec.inPos - 1, by omega⟩
    have hn' : s.dec.inFill - (s.dec.inPos + 1) = n := by omega
    simp only [State.restBytes, hn, hn', loadBytes, List.cons_append, List.nil_append]
  · show s.tc.inCur - (s.dec.inFill - (s.dec.inPos + 1)) = s.tc.inCur - (s.dec.inFill - s.dec.inPos) + 1
    omega

/-- NEXT_BYTE answers the next stream byte, or none where the input has been taken. -/
theorem ReaderOk.nextByte (h : ReaderOk s) :
    (s.restBytes = [] ∧ ∃ t, nextByte s = .ok none t ∧ TookBytes [] s t) ∨
      ∃ b t, nextByte s = .ok (some b) t ∧ TookBytes [b] s t := by
  rcases nextByte_cases s with ⟨hp, he⟩ | ⟨hp, heof, he⟩ | ⟨hp, -, hn, he⟩ | ⟨hp, -, hn, he⟩ <;> rw [he]
  · exact .inr (h.takeInb hp)
  · have hl : s.tc.inLen - s.tc.inCur = 0 := Nat.sub_eq_zero_of_le (h.eof heof).2
    refine .inl ⟨?_, s, rfl, rfl, h, rfl, rfl, rfl, rfl⟩
    rw [State.restBytes, hp, hl, Nat.sub_self]
    rfl
  · have hr := h.refill hp
    have hl : s.tc.inLen - s.tc.inCur = 0 := by simp only [pullCount] at hn; omega
    refine .inl ⟨?_, _, rfl, { hr with
      frame := hr.frame.trans rfl
      reader := { hr.reader with eof := fun _ => ⟨hn.symm, ?_⟩ } }⟩
    · rw [State.restBytes, hp, hl, Nat.sub_self]
      rfl
    · exact Nat.le_add_right_of_le (Nat.le_of_sub_eq_zero hl)
  · have hr := h.refill hp
    obtain ⟨b, t, ht, hb⟩ := hr.reader.takeInb (fun h0 => hn h0.symm)
    exact .inr ⟨b, t, ht, hr.trans hb⟩

/-! ### Bits (R152 to R155) -/

/-- `t` is `s` after `k` bits were taken from the stream: the stream position `8 * (bytes taken) - NBITS` (R31) has moved by `k`. -/
structure TookBits (k : Nat) (s t : State) : Prop where
  frame    : SameButReader s t
  reader   : ReaderOk t
  rest     : t.restBits = s.restBits.drop k
  position : 8 * t.bytesTaken + s.dec.nbits = 8 * s.bytesTaken + t.dec.nbits + k

theorem TookBits.refl (h : ReaderOk s) : TookBits 0 s s := ⟨rfl, h, rfl, rfl⟩

theorem TookBits.trans {j k : Nat} (h : TookBits j s t) (h' : TookBits k t u) : TookBits (j + k) s u where
  frame := h.frame.trans h'.frame
  reader := h'.reader
  rest := by rw [h'.rest, h.rest, List.drop_drop]
  position := by have := h.position; have := h'.position; omega

theorem length_restBits (s : State) : s.restBits.length = s.dec.nbits + 8 * s.restBytes.length := by
  rw [State.restBits, List.length_append, length_bitsOfNat, length_bitsOfBytes]

/-- The byte in hand goes above the bits in `BITBUF`. -/
theorem bitsOfNat_loadByte (b : Byte) (hn : s.dec.nbits ≤ 8) (hb : s.dec.bitbuf.toNat < 2 ^ s.dec.nbits) :
    bitsOfNat (s.dec.nbits + 8) (loadByte b s).dec.bitbuf.toNat =
      bitsOfNat s.dec.nbits s.dec.bitbuf.toNat ++ bitsOfNat 8 b.toNat := by
  have hw : b.toNat * 2 ^ s.dec.nbits < 2 ^ 16 :=
    calc b.toNat * 2 ^ s.dec.nbits < 2 ^ 8 * 2 ^ s.dec.nbits := Nat.mul_lt_mul_of_pos_right b.isLt (Nat.two_pow_pos _)
      _ ≤ 2 ^ 8 * 2 ^ 8 := Nat.mul_le_mul_left _ (Nat.pow_le_pow_right (by decide) hn)
  have h8 : b.toNat % 2 ^ 16 = b.toNat := Nat.mod_eq_of_lt (b.isLt.trans (by decide))
  rw [loadByte_dec_bitbuf, BitVec.toNat_or, BitVec.toNat_shiftLeft, BitVec.toNat_setWidth, h8, Nat.shiftLeft_eq,
    Nat.mod_eq_of_lt hw, Nat.mul_comm b.toNat, Nat.or_comm, ← Nat.two_pow_add_eq_or_of_lt hb, bitsOfNat_append hb]

/-- A byte taken and put into `BITBUF` leaves the bits to be read as they were. -/
theorem TookBytes.loadByte {b : Byte} (h : TookBytes [b] s t) (hn : s.dec.nbits ≤ 8) : TookBits 0 s (loadByte b t) where
  frame := h.frame.trans rfl
  reader := { h.reader with
    nbits := Nat.add_le_add_right (h.nbits.trans_le hn) 8
    bitbuf := loadByte_bitbuf_lt b h.reader.bitbuf }
  rest := by
    show bitsOfNat (t.dec.nbits + 8) (Machine.loadByte b t).dec.bitbuf.toNat ++ bitsOfBytes t.restBytes = s.restBits
    rw [bitsOfNat_loadByte b (h.nbits.trans_le hn) h.reader.bitbuf, List.append_assoc, h.nbits, h.bitbuf, State.restBits, h.rest]
    rfl
  position := by
    have ht : t.bytesTaken = s.bytesTaken + 1 := h.taken
    have hn := h.nbits
    show 8 * t.bytesTaken + s.dec.nbits = 8 * s.bytesTaken + (t.dec.nbits + 8) + 0
    omega

/-- No byte taken: no bits either. -/
theorem TookBytes.tookNone (h : TookBytes [] s t) : TookBits 0 s t where
  frame := h.frame
  reader := h.reader
  rest := by
    have hr : s.restBytes = t.restBytes := h.rest
    rw [State.restBits, State.restBits, h.nbits, h.bitbuf, hr]
    rfl
  position := by
    have ht : t.bytesTaken = s.bytesTaken + 0 := h.taken
    have hn := h.nbits
    omega

theorem ReaderOk.fillLoop (fuel : Nat) (h : ReaderOk s) : ∃ t, fillLoop fuel s = .ok () t ∧ TookBits 0 s t ∧
    (t.restBytes = [] ∨ 8 < t.dec.nbits ∨ s.dec.nbits + 8 * fuel ≤ t.dec.nbits) := by
  induction fuel generalizing s with
  | zero => exact ⟨s, rfl, .refl h, .inr (.inr (Nat.le_refl _))⟩
  | succ fuel ih =>
    unfold Machine.fillLoop
    by_cases hn : s.dec.nbits ≤ 8
    · rw [if_pos hn]
      rcases h.nextByte with ⟨hr, t, he, ht⟩ | ⟨b, t, he, ht⟩ <;> rw [he]
      · have hrt : s.restBytes = t.restBytes := ht.rest
        exact ⟨t, rfl, ht.tookNone, .inl (hrt.symm.trans hr)⟩
      · obtain ⟨u, hu, hf, hd⟩ := ih (ht.loadByte hn).reader
        refine ⟨u, hu, (ht.loadByte hn).trans hf, hd.imp_right (Or.imp_right fun hd => ?_)⟩
        rw [loadByte_dec_nbits, ht.nbits] at hd
        omega
    · rw [if_neg hn]
      exact ⟨s, rfl, .refl h, .inr (.inl (Nat.lt_of_not_le hn))⟩

/-- FILL leaves at least 9 bits in `BITBUF`, or the input has been taken. -/
theorem ReaderOk.fill (h : ReaderOk s) :
    ∃ t, fill s = .ok () t ∧ TookBits 0 s t ∧ (t.restBytes = [] ∨ 8 < t.dec.nbits) := by
  obtain ⟨t, he, ht, hd⟩ := h.fillLoop 2
  exact ⟨t, he, ht, hd.imp_right fun hd => by omega⟩

/-- Where `BITBUF` holds `k` bits or all there are, the next `k` bits are its low ones, zeros past the end. -/
theorem natOfBits_take_restBits (h : ReaderOk s) {k : Nat} (hk : s.restBytes = [] ∨ k ≤ s.dec.nbits) :
    natOfBits (s.restBits.take k) = s.dec.bitbuf.toNat % 2 ^ k := by
  rw [← natOfBits_take_bitsOfNat h.bitbuf, State.restBits]
  rcases hk with hk | hk
  · rw [hk, bitsOfBytes, List.append_nil]
  · rw [List.take_append_of_le_length (by rwa [length_bitsOfNat])]

/-- PEEK answers the next `k` bits and takes none. -/
theorem ReaderOk.peek (h : ReaderOk s) {k : Nat} (h1 : 1 ≤ k) (h8 : k ≤ 8) :
    ∃ t, peek k s = .ok (natOfBits (s.restBits.take k)) t ∧ TookBits 0 s t := by
  obtain ⟨t, he, ht, hd⟩ := h.fill
  refine ⟨t, peek_eq_ok.2 ⟨h1, h8, he, ?_⟩, ht⟩
  have hr : t.restBits = s.restBits := ht.rest
  rw [← hr, natOfBits_take_restBits ht.reader (hd.imp_right fun hd => by omega)]
  rfl

/-- `k` bits taken out of `BITBUF`. -/
theorem ReaderOk.shiftRight (h : ReaderOk s) {k : Nat} (hk : k ≤ s.dec.nbits) :
    TookBits k s { s with dec := { s.dec with bitbuf := s.dec.bitbuf >>> k, nbits := s.dec.nbits - k } } where
  frame := rfl
  reader := { h with
    nbits := (Nat.sub_le _ _).trans h.nbits
    bitbuf := by
      show (s.dec.bitbuf >>> k).toNat < 2 ^ (s.dec.nbits - k)
      rw [BitVec.toNat_ushiftRight, Nat.shiftRight_eq_div_pow]
      refine Nat.div_lt_of_lt_mul ?_
      rw [← pow_add, Nat.add_sub_cancel' hk]
      exact h.bitbuf }
  rest := by
    show bitsOfNat (s.dec.nbits - k) (s.dec.bitbuf >>> k).toNat ++ bitsOfBytes s.restBytes = _
    rw [State.restBits, List.drop_append_of_le_length (by rwa [length_bitsOfNat]), drop_bitsOfNat hk,
      BitVec.toNat_ushiftRight, Nat.shiftRight_eq_div_pow]
  position := by
    show 8 * s.bytesTaken + s.dec.nbits = 8 * s.bytesTaken + (s.dec.nbits - k) + k
    omega

/-- CONSUME takes the next `k` bits, or raises STARVED where there are fewer. -/
theorem ReaderOk.consume (P : Config.Params) (h : ReaderOk s) {k : Nat} (h1 : 1 ≤ k) (h8 : k ≤ 8) :
    (k ≤ s.restBits.length ∧ ∃ t, consume P k s = .ok () t ∧ TookBits k s t) ∨
      (s.restBits.length < k ∧ ∃ t, consume P k s = raise P .dec .starved t ∧ TookBits 0 s t) := by
  obtain ⟨t, he, ht, hd⟩ := h.fill
  have hr : t.restBits = s.restBits := ht.rest
  have hl := length_restBits t
  unfold Machine.consume
  rw [if_neg (by omega), he, Res.bind_ok, ← hr]
  by_cases hk : t.dec.nbits < k
  · have h0 : t.restBytes = [] := hd.resolve_right (by omega)
    rw [h0, List.length_nil] at hl
    exact .inr ⟨by omega, t, if_pos hk, ht⟩
  · refine .inl ⟨by omega, _, if_neg hk, ?_⟩
    have := ht.trans (ht.reader.shiftRight (Nat.le_of_not_lt hk))
    rwa [Nat.zero_add] at this

/-- READ takes the next `k` bits. -/
theorem ReaderOk.readBits (P : Config.Params) (h : ReaderOk s) {k : Nat} (h1 : 1 ≤ k) (h8 : k ≤ 8) (hk : k ≤ s.restBits.length) :
    ∃ t, readBits P k s = .ok (natOfBits (s.restBits.take k)) t ∧ TookBits k s t := by
  obtain ⟨t, hp, ht⟩ := h.peek h1 h8
  have hr : t.restBits = s.restBits := ht.rest
  rcases ht.reader.consume P h1 h8 with ⟨-, u, hc, hu⟩ | ⟨hlt, -⟩
  · have := ht.trans hu
    rw [Nat.zero_add] at this
    exact ⟨u, readBits_eq_ok.2 ⟨t, hp, hc⟩, this⟩
  · rw [hr] at hlt
    omega

/-- While no more bits are held than bytes were taken, the stream position moves by the bits taken. -/
theorem TookBits.decPosition {k : Nat} (h : TookBits k s t) (hn : s.dec.nbits ≤ 8 * s.bytesTaken) :
    t.decPosition = s.decPosition + k ∧ t.dec.nbits ≤ 8 * t.bytesTaken := by
  have := h.position
  unfold State.decPosition
  omega

/-- Settles O14: READ is PEEK and CONSUME, and neither moves anything but the reader. -/
theorem readDeliversTheNextBits : Obligations.ReadDeliversTheNextBits := by
  intro P k s h1 h8 h hn hk
  obtain ⟨t, he, ht⟩ := h.readBits P h1 h8 hk
  exact ⟨t, he, ht.rest, (ht.decPosition hn).1, ht.reader, ht.frame⟩

end Sys2Proof.Machine
end

section
/-! SUPPORT. What a step of a running command leaves alone, in any state (R33, R80, R85): the frames of reading and of writing, then
those of the rows, of the flushes and of CMP's own operations. -/

namespace Sys2Proof.Machine

variable {P : Config.Params} {E : State → Prop} {r s t : State}

/-! ### Reading (R151 to R154) -/

theorem SameButReader.refl (s : State) : SameButReader s s := rfl

theorem SameButReader.nextByte (h : SameButReader r s) : (nextByte s).Holds (fun _ t => SameButReader r t) E := by
  have htake : ∀ t, SameButReader r t → (takeInb t).Holds (fun _ u => SameButReader r u) E := fun t ht => by
    unfold takeInb
    split_ifs
    · trivial
    · exact ht.trans rfl
  rcases nextByte_cases s with ⟨-, he⟩ | ⟨-, -, he⟩ | ⟨-, -, -, he⟩ | ⟨-, -, -, he⟩ <;> rw [he]
  · exact htake s h
  · exact h
  · exact h.trans rfl
  · exact htake _ (h.trans rfl)

theorem SameButReader.fillLoop (fuel : Nat) (h : SameButReader r s) :
    (fillLoop fuel s).Holds (fun _ t => SameButReader r t) E := by
  induction fuel generalizing s with
  | zero => exact h
  | succ fuel ih =>
    unfold Machine.fillLoop
    split_ifs
    · refine h.nextByte.bind fun o t ht => ?_
      cases o with
      | none => exact ht
      | some b => exact ih (ht.trans rfl)
    · exact h

theorem SameButReader.peek (k : Nat) (h : SameButReader r s) : (peek k s).Holds (fun _ t => SameButReader r t) E := by
  unfold Machine.peek
  split_ifs
  · trivial
  · exact (h.fillLoop 2).bind fun _ _ ht => ht

theorem SameButReader.consume (hE : ∀ t, SameButReader r t → E (t.fail P .dec .starved)) (k : Nat) (h : SameButReader r s) :
    (consume P k s).Holds (fun _ t => SameButReader r t) E := by
  unfold Machine.consume
  split_ifs
  · trivial
  · refine (h.fillLoop 2).bind fun _ t ht => ?_
    split_ifs
    · exact hE t ht
    · exact ht.trans rfl

/-! ### Writing (R140 to R144, R175 to R177, R292) -/

/-- PUSH writes the output cursor, `STOP`, `HOST_OUT` and the log of transfers, whichever engine pushes. -/
theorem push_state (m : Memory) (size : Nat) (f : Fault) (a n : Nat) (s : State) : (push m size f a n s).Holds (fun _ t =>
    t = { s with tc := { s.tc with outCur := t.tc.outCur, stop := t.tc.stop }, hostOut := t.hostOut, xfers := t.xfers }) E := by
  rcases push_cases m size f a n s with ⟨-, he⟩ | ⟨-, -, he⟩ | ⟨-, -, -, he⟩ | ⟨-, -, -, he⟩ <;> rw [he]
  · exact rfl
  · trivial
  · exact rfl
  · exact rfl

theorem SameButWriter.refl (s : State) : SameButWriter s s := rfl

/-- A push out of `OUTB`, after which `OUT_POS` is 0 (R142, R144). -/
theorem SameButWriter.pushOutb (n : Nat) (h : SameButWriter r s) :
    ((push s.cmp.outb Config.outbSize .outbRange 0 n s).bind fun _ t =>
      .ok () { t with cmp := { t.cmp with outPos := 0 } }).Holds (fun _ t => SameButWriter r t) E :=
  (push_state _ _ _ _ _ _).bind fun _ t ht => by
    rw [ht]
    exact h.trans rfl

theorem SameButWriter.storeByte (b : Byte) (h : SameButWriter r s) : (storeByte b s).Holds (fun _ t => SameButWriter r t) E := by
  rcases storeByte_cases b s with ⟨-, he⟩ | ⟨-, -, he⟩ | ⟨-, -, he⟩ | ⟨-, -, he⟩ <;> rw [he]
  · exact h
  · trivial
  · exact h.trans rfl
  · refine SameButWriter.pushOutb (s := { s with
      cmp := { s.cmp with outb := s.cmp.outb.write s.cmp.outPos b, outPos := s.cmp.outPos + 1 } }) _ ?_
    exact h.trans rfl

theorem SameButWriter.writeLoop (fuel n v : Nat) (h : SameButWriter r s) :
    (writeLoop fuel n v s).Holds (fun _ t => SameButWriter r t) E := by
  induction fuel generalizing n v s with
  | zero => exact h
  | succ fuel ih =>
    have ha : SameButWriter r (addToAcc (min n (8 - s.cmp.nacc)) v s) := h.trans rfl
    unfold Machine.writeLoop
    dsimp only
    split_ifs
    · exact h
    · exact (ha.storeByte _).bind fun _ t ht => ih _ _ (ht.trans rfl)
    · exact ih _ _ ha

theorem SameButWriter.writeBits (n v : Nat) (h : SameButWriter r s) :
    (writeBits n v s).Holds (fun _ t => SameButWriter r t) E := by
  unfold Machine.writeBits
  split_ifs
  · exact h
  · trivial
  · exact h.writeLoop _ _ _

theorem SameButWriter.finish (h : SameButWriter r s) : (finish s).Holds (fun _ t => SameButWriter r t) E := by
  have hbyte : (finishByte s).Holds (fun _ t => SameButWriter r t) E := by
    unfold finishByte
    split_ifs
    · exact h
    · exact (h.storeByte _).bind fun _ t ht => ht.trans rfl
  unfold Machine.finish
  split_ifs
  · exact h
  · refine hbyte.bind fun _ t ht => ?_
    unfold finishPush
    split_ifs
    · exact ht
    · exact ht.pushOutb _

theorem SameButWriter.emitToken (T : Config.CodeTables) (tok : Token) (h : SameButWriter r s) :
    (emitToken T tok s).Holds (fun _ t => SameButWriter r t) E := by
  cases tok with
  | lit b => exact h.writeBits _ _
  | copy len off =>
    simp only [Machine.emitToken, emitCopy]
    split_ifs
    · exact (h.writeBits _ _).bind fun _ t ht => (ht.writeBits _ _).bind fun _ u hu => hu.writeBits _ _
    · trivial

/-! ### What either engine keeps -/

/-- The host's input and its operands are as they were, and so is `CMD` while the command goes on. -/
structure CommandKept (s t : State) : Prop where
  hostIn   : t.hostIn = s.hostIn
  wsizeCfg : t.cr.wsizeCfg = s.cr.wsizeCfg
  argInLen : t.cr.argInLen = s.cr.argInLen
  cmd      : t.busy = true → t.cr.cmd = s.cr.cmd

theorem commandKept_of_cr_eq (hi : t.hostIn = s.hostIn) (hc : t.cr = s.cr) : CommandKept s t :=
  ⟨hi, congrArg _ hc, congrArg _ hc, fun _ => congrArg _ hc⟩

theorem CommandKept.of_cr_eq (h : CommandKept r s) (hi : t.hostIn = s.hostIn) (hc : t.cr = s.cr) : CommandKept r t where
  hostIn := hi.trans h.hostIn
  wsizeCfg := (congrArg _ hc).trans h.wsizeCfg
  argInLen := (congrArg _ hc).trans h.argInLen
  cmd hb := (congrArg _ hc).trans (h.cmd ((congrArg (fun c : CommandRegs => statusBusy c.status) hc).symm.trans hb))

theorem fail_busy (P : Config.Params) (e : Engine) (c : Cause) (s : State) : (s.fail P e c).busy = false := by
  cases e <;> exact statusBusy_fail _ c

theorem complete_busy (e : Engine) (s : State) : (s.complete e).busy = false := by
  cases e <;> exact statusBusy_ok

theorem CommandKept.fail (h : CommandKept s t) (P : Config.Params) (e : Engine) (c : Cause) : CommandKept s (t.fail P e c) where
  hostIn := (by cases e <;> rfl : _ = t.hostIn).trans h.hostIn
  wsizeCfg := (by cases e <;> rfl : _ = t.cr.wsizeCfg).trans h.wsizeCfg
  argInLen := (by cases e <;> rfl : _ = t.cr.argInLen).trans h.argInLen
  cmd hb := absurd ((fail_busy P e c t).symm.trans hb) (by decide)

theorem CommandKept.complete (h : CommandKept s t) (e : Engine) : CommandKept s (t.complete e) where
  hostIn := (by cases e <;> rfl : _ = t.hostIn).trans h.hostIn
  wsizeCfg := (by cases e <;> rfl : _ = t.cr.wsizeCfg).trans h.wsizeCfg
  argInLen := (by cases e <;> rfl : _ = t.cr.argInLen).trans h.argInLen
  cmd hb := absurd ((complete_busy e t).symm.trans hb) (by decide)

/-- Where `STOP` was clear and is set now, the command has failed with OutputOverflow(PUSH) (R239, R270, R271). -/
def StopFails (s t : State) : Prop :=
  s.tc.stop = false → t.tc.stop = true → t.cr.status = statusFail .outputOverflow .push

theorem stopFails_of_stop_eq (h : t.tc.stop = s.tc.stop) : StopFails s t :=
  fun h0 h1 => absurd (h0.symm.trans (h.symm.trans h1)) (by decide)

theorem stopFails_of_running (h : t.tc.stop = false) : StopFails s t := fun _ h1 => absurd (h.symm.trans h1) (by decide)

/-! ### The rows and the flushes of DEC (R262 to R271) -/

/-- The registers and the memory of the bit reader (R37, R41). -/
def DecEngine.bitReader (d : DecEngine) : BitVec 16 × Nat × Nat × Nat × Bool × Memory :=
  (d.bitbuf, d.nbits, d.inPos, d.inFill, d.inEof, d.inb)

/-- CMP, the input cursor and the bit reader are as they were. -/
structure DecKept (s t : State) : Prop where
  command : CommandKept s t
  cmp     : t.cmp = s.cmp
  inCur   : t.tc.inCur = s.tc.inCur
  inLen   : t.tc.inLen = s.tc.inLen
  reader  : t.dec.bitReader = s.dec.bitReader

/-- What a row or a flush keeps. -/
structure RowKept (s t : State) : Prop extends DecKept s t where
  stop : StopFails s t

/-- An operation that writes pipeline registers of DEC, its tables or `WIN`. -/
theorem decKept_of_dec (h : t = { s with hdr := t.hdr, dec := t.dec }) (hr : t.dec.bitReader = s.dec.bitReader) : DecKept s t :=
  ⟨commandKept_of_cr_eq (congrArg (·.hostIn) h) (congrArg (·.cr) h), congrArg (·.cmp) h, congrArg (·.tc.inCur) h,
    congrArg (·.tc.inLen) h, hr⟩

theorem rowKept_of_dec (h : t = { s with hdr := t.hdr, dec := t.dec }) (hr : t.dec.bitReader = s.dec.bitReader) : RowKept s t :=
  ⟨decKept_of_dec h hr, stopFails_of_stop_eq (congrArg (·.tc.stop) h)⟩

theorem DecKept.refl (s : State) : DecKept s s := decKept_of_dec rfl rfl

theorem DecKept.fail (h : DecKept s t) (P : Config.Params) (c : Cause) : DecKept s (t.fail P .dec c) :=
  ⟨h.command.fail P .dec c, h.cmp, h.inCur, h.inLen, h.reader⟩

theorem DecKept.complete (h : DecKept s t) : DecKept s (t.complete .dec) :=
  ⟨h.command.complete .dec, h.cmp, h.inCur, h.inLen, h.reader⟩

theorem rowKept_fail (P : Config.Params) (c : Cause) (h : DecKept s t) (hs : t.tc.stop = s.tc.stop) : RowKept s (t.fail P .dec c) :=
  ⟨h.fail P c, stopFails_of_stop_eq hs⟩

theorem rowKept_takeByteZero (b : Byte) (s : State) : NextHolds (RowKept s) (takeByteZero b s) :=
  rowKept_of_dec rfl rfl

theorem rowKept_checkHeader (P : Config.Params) (w : Byte) (s : State) : NextHolds (RowKept s) (checkHeader P w s) := by
  have hload : DecKept s (loadHeader w s) := decKept_of_dec rfl rfl
  unfold checkHeader
  dsimp only
  split_ifs
  · exact rowKept_fail P _ hload rfl
  · exact rowKept_fail P _ hload rfl
  · exact rowKept_of_dec rfl rfl

theorem rowKept_storeLiteral (P : Config.Params) (b : Byte) (s : State) : NextHolds (RowKept s) (storeLiteral P b s) := by
  unfold storeLiteral
  split_ifs
  · trivial
  · exact rowKept_of_dec rfl rfl

theorem rowKept_setCopyLength (P : Config.Params) (i e : Nat) (s : State) : NextHolds (RowKept s) (setCopyLength P i e s) :=
  rowKept_of_dec rfl rfl

theorem rowKept_execEnd (s : State) : NextHolds (RowKept s) (execEnd s) :=
  rowKept_of_dec rfl rfl

theorem rowKept_copyFromOffset (P : Config.Params) (c : Nat) (low : Low) (s : State) :
    NextHolds (RowKept s) (copyFromOffset P c low s) := by
  unfold copyFromOffset copyExec
  dsimp only
  split_ifs
  · exact rowKept_fail P _ (t := { s with dec := { s.dec with tOff := offsetOf c low, offNext := false } })
      (decKept_of_dec rfl rfl) rfl
  · trivial
  · exact rowKept_of_dec rfl rfl

/-- Both flushes push, fail with cause PUSH if `STOP` is set, and else go on (R270, R271). -/
theorem rowKept_pushWin {f : State → Res Unit} (P : Config.Params) (n : Nat) (s : State)
    (hf : ∀ t, DecKept s t → t.tc.stop = false → (f t).Holds (fun _ => RowKept s) (RowKept s)) :
    ((push s.dec.win P.decWinSize .winRange Config.decHist n s).bind fun _ t =>
      if t.tc.stop then raise P .dec .push t else f t).Holds (fun _ => RowKept s) (RowKept s) := by
  refine (push_state _ _ _ _ _ _).bind fun _ t ht => ?_
  have hk : DecKept s t := by
    rw [ht]
    exact ⟨commandKept_of_cr_eq rfl rfl, rfl, rfl, rfl, rfl⟩
  split_ifs with hs
  · exact ⟨hk.fail P .push, fun _ _ => rfl⟩
  · exact hf t hk (by simpa using hs)

theorem rowKept_flushIfFull (P : Config.Params) (s : State) : (flushIfFull P s).Holds (fun _ => RowKept s) (RowKept s) := by
  unfold flushIfFull
  split_ifs
  · exact rowKept_of_dec rfl rfl
  · trivial
  · exact rowKept_pushWin P _ s fun t ht hs =>
      ⟨⟨ht.command.of_cr_eq rfl rfl, ht.cmp, ht.inCur, ht.inLen, ht.reader⟩, stopFails_of_running hs⟩

theorem rowKept_finalFlush (P : Config.Params) (s : State) : (finalFlush P s).Holds (fun _ => RowKept s) (RowKept s) := by
  unfold finalFlush
  split_ifs
  · exact ⟨(DecKept.refl s).complete, stopFails_of_stop_eq rfl⟩
  · exact rowKept_pushWin P _ s fun t ht hs => ⟨ht.complete, stopFails_of_running hs⟩

/-! ### The operations of CMP (R231 to R239) -/

/-- DEC is as it was, and `STOP` fails the command. -/
structure CmpKept (s t : State) : Prop where
  command : CommandKept s t
  dec     : t.dec = s.dec
  stop    : StopFails s t

/-- `t` is `s` but for CMP, the Transfer Context, `HOST_OUT` and the log of transfers. -/
def SameButCmp (s t : State) : Prop := t = { s with tc := t.tc, cmp := t.cmp, hostOut := t.hostOut, xfers := t.xfers }

theorem SameButCmp.trans (h : SameButCmp r s) (h' : SameButCmp s t) : SameButCmp r t := by
  unfold SameButCmp at *
  rw [h] at h'
  exact h'

theorem SameButWriter.sameButCmp (h : SameButWriter s t) : SameButCmp s t := by
  unfold SameButWriter at h
  rw [h]
  rfl

theorem SameButCmp.command (h : SameButCmp s t) : CommandKept s t :=
  commandKept_of_cr_eq (congrArg (·.hostIn) h) (congrArg (·.cr) h)

theorem SameButCmp.dec (h : SameButCmp s t) : t.dec = s.dec := congrArg (·.dec) h

/-- An operation that leaves `STOP` clear. -/
theorem SameButCmp.kept (h : SameButCmp s t) (hs : t.tc.stop = false ∨ t.tc.stop = s.tc.stop) : CmpKept s t :=
  ⟨h.command, h.dec, hs.elim stopFails_of_running stopFails_of_stop_eq⟩

/-- Every push of CMP is followed by the test of `STOP` (R239). -/
theorem SameButCmp.failIfStopped {f : State → Res Unit} (h : SameButCmp s t)
    (hf : t.tc.stop = false → (f t).Holds (fun _ => CmpKept s) (CmpKept s)) :
    (failIfStopped P t f).Holds (fun _ => CmpKept s) (CmpKept s) :=
  holds_failIfStopped (fun _ => ⟨h.command.fail P .cmp .push, h.dec, fun _ _ => rfl⟩) hf

theorem cmpKept_stage (s : State) : (stage s).Holds (fun _ => CmpKept s) E :=
  SameButCmp.kept rfl (.inr rfl)

theorem cmpKept_analyze (s : State) : (analyze s).Holds (fun _ => CmpKept s) E := by
  unfold analyze indexBuild
  split_ifs
  · trivial
  · trivial
  · exact SameButCmp.kept rfl (.inr rfl)

theorem cmpKept_shift (s : State) : (shift s).Holds (fun _ => CmpKept s) E := by
  unfold shift
  split_ifs
  · trivial
  · exact SameButCmp.kept rfl (.inr rfl)

theorem sameButCmp_choose (P : Config.Params) (s : State) : (choose P s).Holds (fun _ t => SameButCmp s t) E := by
  unfold choose
  split_ifs
  · trivial
  · refine (holds_orFault _ s).bind ?_
    rintro m _ ⟨-, rfl⟩
    dsimp only
    split_ifs
    · refine (holds_orFault _ _).bind ?_
      rintro n _ ⟨-, rfl⟩
      split_ifs
      · exact rfl
      · exact rfl
    · exact rfl

theorem cmpKept_emitStep (P : Config.Params) (s : State) : (emitStep P s).Holds (fun _ => CmpKept s) (CmpKept s) := by
  refine (sameButCmp_choose P s).bind fun c t ht => ((SameButWriter.refl t).emitToken _ _).bind fun _ u hu => ?_
  have hadv : SameButCmp s (u.advance c.2) := (ht.trans hu.sameButCmp).trans rfl
  exact hadv.failIfStopped fun hs => hadv.kept (.inl hs)

theorem cmpKept_emitState (P : Config.Params) (s : State) : (emitState P s).Holds (fun _ => CmpKept s) (CmpKept s) := by
  refine SameButCmp.failIfStopped rfl fun _ => ?_
  by_cases hc : s.cmp.cur < s.cmp.scanEnd
  · rw [if_pos hc]
    exact cmpKept_emitStep P s
  · rw [if_neg hc]
    exact SameButCmp.kept rfl (.inr rfl)

theorem cmpKept_terminate (P : Config.Params) (s : State) : (terminate P s).Holds (fun _ => CmpKept s) (CmpKept s) := by
  refine ((SameButWriter.refl s).writeBits _ _).bind fun _ t ht => ht.finish.bind fun _ u hu => ?_
  have hc := hu.sameButCmp
  exact hc.failIfStopped fun hs => ⟨hc.command.complete .cmp, hc.dec, stopFails_of_running hs⟩

theorem cmpKept_cmpStep (P : Config.Params) (s : State) : (cmpStep P s).Holds (fun _ => CmpKept s) (CmpKept s) := by
  unfold cmpStep
  cases s.cmp.cstate with
  | idle => trivial
  | staging => exact cmpKept_stage s
  | analyze => exact cmpKept_analyze s
  | emit => exact cmpKept_emitState P s
  | shift => exact cmpKept_shift s
  | terminate => exact cmpKept_terminate P s
  | done => trivial
  | fail => trivial

end Sys2Proof.Machine
end

section
/-! SUPPORT. The step by whose it is: what a step between commands can answer, and the step of DEC put together from what reading keeps
and what every row and flush keeps. -/

namespace Sys2Proof.Machine

variable {Q E : State → Prop} {s t : State}

/-! ### The step between commands (R293 to R296) -/

/-- Between commands a step does nothing, starts a command, fails one with BAD_WSIZE_CFG, or refuses what is written in `CMD`. -/
theorem step_idle_cases (h : s.busy = false) :
    step s = .next s ∨
    step s = .next ((s.startCommand 1).fail standard .cmp .badWsizeCfg) ∨
    step s = .next { s.cmpStarted tPkware with cmp := { (s.cmpStarted tPkware).cmp with
      outb := (s.cmp.outb.write 0 0).write 1 s.cr.wsizeCfg
      outPos := 2 } } ∨
    step s = .next (initDec (s.startCommand 2)) ∨
    ∃ r, step s = .refused r := by
  rw [step_idle h]
  unfold idleFetch
  match s.cr.cmd.toNat with
  | 0 => exact .inl rfl
  | 1 =>
    rcases runCompress_cases standard s with ⟨-, he⟩ | ⟨-, -, he⟩ | ⟨-, -, -, he⟩ | ⟨-, -, -, he⟩
    · exact .inr (.inr (.inr (.inr ⟨_, he⟩)))
    · exact .inr (.inr (.inr (.inr ⟨_, he⟩)))
    · exact .inr (.inr (.inl (he.trans (congrArg Res.outcome (compressStart_eq tPkware s)))))
    · exact .inr (.inl he)
  | 2 =>
    rcases runDecompress_cases standard s with ⟨-, he⟩ | ⟨-, -, he⟩ | ⟨-, -, he⟩
    · exact .inr (.inr (.inr (.inr ⟨_, he⟩)))
    · exact .inr (.inr (.inr (.inr ⟨_, he⟩)))
    · exact .inr (.inr (.inr (.inl he)))
  | _ + 3 => exact .inr (.inr (.inr (.inr ⟨_, rfl⟩)))

/-- In any state a step is one between commands, one of CMP, one of DEC, or refused. -/
theorem step_agents (s : State) :
    s.busy = false ∨ s.running .cmp ∨ s.running .dec ∨ step s = .refused .hostWhileBusy := by
  cases hb : s.busy with
  | false => exact .inl rfl
  | true =>
    right
    by_cases h1 : s.cr.cmd = 1
    · exact .inl ⟨hb, h1⟩
    · by_cases h2 : s.cr.cmd = 2
      · exact .inr (.inl ⟨hb, h2⟩)
      · refine .inr (.inr ?_)
        have hf : fetch standard s = .done (.refused .hostWhileBusy) := by
          unfold fetch
          rw [if_pos hb]
          split
          · next hc => exact absurd (BitVec.eq_of_toNat_eq hc) h1
          · next hc => exact absurd (BitVec.eq_of_toNat_eq hc) h2
          · rfl
        unfold step
        rw [hf]

theorem cmpKept_step (h : s.running .cmp) : NextHolds (CmpKept s) (step s) := by
  rw [step_cmp h]
  exact (cmpKept_cmpStep standard s).outcome

/-! ### The step of DEC (R261 to R271) -/

/-- `Q` is kept by taking bits and by passing through a state of R261, and a row or a flush leads from `Q` to `E`. -/
structure KeptByReading (Q E : State → Prop) : Prop where
  peek    : ∀ k s, Q s → (peek k s).Holds (fun _ t => Q t) E
  consume : ∀ k s, Q s → (consume standard k s).Holds (fun _ t => Q t) E
  dstate  : ∀ d s, Q s → Q (s.setDstate d)
  row     : ∀ s t, Q s → RowKept s t → E t

section Fetch

variable (h : KeptByReading Q E) (hs : Q s)
include h hs

theorem KeptByReading.readBits (k : Nat) : (readBits standard k s).Holds (fun _ t => Q t) E :=
  (h.peek k s hs).bind fun _ t ht => (h.consume k t ht).bind fun _ _ hu => hu

theorem KeptByReading.readExtra (i : Nat) : (readExtra standard i s).Holds (fun _ t => Q t) E := by
  unfold Machine.readExtra
  split_ifs
  · exact hs
  · exact h.readBits hs _

theorem KeptByReading.decodeLen : (decodeLen standard s).Holds (fun _ t => Q t) E :=
  (h.peek 8 s hs).bind fun _ t ht => (h.consume _ t ht).bind fun _ _ hu => (h.readExtra hu _).bind fun _ _ hv => hv

theorem KeptByReading.decodeOff (len : Nat) : (decodeOff standard len s).Holds (fun _ t => Q t) E :=
  (h.peek 8 s hs).bind fun _ t ht => (h.consume _ t ht).bind fun _ _ hu => (h.readBits hu _).bind fun _ _ hv => hv

theorem KeptByReading.nextHolds {o : Host.Outcome State Fault Refusal} (ho : NextHolds (RowKept s) o) : NextHolds E o :=
  ho.mono fun t => h.row s t hs

theorem KeptByReading.fetchLiteral : (fetchLiteral standard s).Holds (fun i t => NextHolds E (exec i t)) E :=
  (h.readBits hs 8).bind fun _ t ht => h.nextHolds ht (rowKept_storeLiteral standard _ t)

theorem KeptByReading.fetchLength : (fetchLength standard s).Holds (fun i t => NextHolds E (exec i t)) E := by
  refine (h.decodeLen hs).bind ?_
  rintro ⟨c, e⟩ t ht
  dsimp only
  cases hi : lenInstr standard.tables c e with
  | none => trivial
  | some i =>
    refine h.nextHolds ht ?_
    rcases lenInstr_eq_some hi with ⟨-, rfl⟩ | ⟨-, -, hexec⟩
    · exact rowKept_execEnd t
    · rw [hexec]
      exact rowKept_setCopyLength standard c _ t

theorem KeptByReading.fetchOffset : (fetchOffset standard s).Holds (fun i t => NextHolds E (exec i t)) E := by
  refine (h.decodeOff hs _).bind ?_
  rintro ⟨c, v⟩ t ht
  dsimp only
  cases hi : (lowOf (lowWidth t.dec.tLen t.hdr.wsize) v).bind (distInstr c) with
  | none => trivial
  | some i =>
    obtain ⟨low, -, hrow⟩ := Option.bind_eq_some_iff.1 hi
    refine h.nextHolds ht ?_
    rw [(distInstr_eq_some hrow).2]
    exact rowKept_copyFromOffset standard c low t

theorem KeptByReading.fetchToken : (fetchToken standard s).Holds (fun i t => NextHolds E (exec i t)) E := by
  refine (h.readBits hs 1).bind fun sel t ht => ?_
  split_ifs
  · exact h.fetchLiteral (h.dstate _ t ht)
  · exact h.fetchLength (h.dstate _ t ht)

omit hs in
/-- A header byte is taken from the stream as a byte, so what taking it keeps is for the caller to show. -/
theorem KeptByReading.fetchHeader (hbyte : (nextByte s).Holds (fun _ t => Q t) E) :
    (fetchHeader standard s).Holds (fun i t => NextHolds E (exec i t)) E := by
  refine hbyte.bind fun o t ht => ?_
  cases o with
  | none =>
    exact h.row t _ ht (rowKept_fail standard .headerShort (.refl t) rfl)
  | some b =>
    refine h.nextHolds ht ?_
    split_ifs
    · exact rowKept_takeByteZero b t
    · exact rowKept_checkHeader standard b t

theorem KeptByReading.step (hr : s.running .dec)
    (hbyte : s.dec.dstate = .header → (nextByte s).Holds (fun _ t => Q t) E) : NextHolds E (step s) := by
  refine nextHolds_step_dec hr ?_
  unfold decFetch
  cases hd : s.dec.dstate with
  | idle => trivial
  | header => exact (h.fetchHeader (hbyte hd)).runs
  | token => exact (h.fetchToken hs).runs
  | literal => exact (h.fetchLiteral hs).runs
  | copy =>
    dsimp only
    split_ifs
    · exact (h.fetchOffset hs).runs
    · exact (h.fetchLength hs).runs
  | flush => exact h.nextHolds hs (rowKept_flushIfFull standard s).outcome
  | eof => exact h.nextHolds hs (rowKept_finalFlush standard s).outcome
  | done => trivial
  | fail => trivial

end Fetch

/-! ### What a step of DEC leaves alone -/

/-- CMP is as it was, and `STOP` fails the command. -/
structure DecStepKept (s t : State) : Prop where
  command : CommandKept s t
  cmp     : t.cmp = s.cmp
  stop    : StopFails s t

/-- `t` is `s` but for DEC, the input cursor and the log of transfers. -/
def SameButDec (s t : State) : Prop := t = { s with tc := { s.tc with inCur := t.tc.inCur }, dec := t.dec, xfers := t.xfers }

theorem SameButDec.of_sameButReader {r : State} (h : SameButDec r s) (h' : SameButReader s t) : SameButDec r t := by
  unfold SameButDec SameButReader at *
  rw [h] at h'
  rw [h']

theorem SameButDec.rowKept {r : State} (h : SameButDec r s) (h' : RowKept s t) : DecStepKept r t where
  command := {
    hostIn := h'.command.hostIn.trans (congrArg (·.hostIn) h)
    wsizeCfg := h'.command.wsizeCfg.trans (congrArg (·.cr.wsizeCfg) h)
    argInLen := h'.command.argInLen.trans (congrArg (·.cr.argInLen) h)
    cmd := fun hb => (h'.command.cmd hb).trans (congrArg (·.cr.cmd) h) }
  cmp := h'.cmp.trans (congrArg (·.cmp) h)
  stop h0 := h'.stop ((congrArg (·.tc.stop) h).trans h0)

theorem keptByReading_sameButDec (s : State) : KeptByReading (SameButDec s) (DecStepKept s) where
  peek k t ht := ((SameButReader.refl t).peek k).mono fun _ _ => ht.of_sameButReader
  consume k t ht := by
    refine (SameButReader.consume (fun u hu => ?_) k (.refl t)).mono fun _ _ => ht.of_sameButReader
    exact (ht.of_sameButReader hu).rowKept (rowKept_fail standard .starved (.refl u) rfl)
  dstate d t ht := by
    unfold SameButDec at *
    rw [ht]
    rfl
  row t u := SameButDec.rowKept

theorem decStepKept_step (h : s.running .dec) : NextHolds (DecStepKept s) (step s) :=
  (keptByReading_sameButDec s).step rfl h fun _ =>
    (SameButReader.refl s).nextByte.mono fun _ _ => SameButDec.of_sameButReader (r := s) rfl

/-! ### The obligations -/

/-- Settles O51: a step between commands writes neither operand nor input, and each engine's step has its frame. -/
theorem stepsTouchOnlyTheirOwn : Obligations.StepsTouchOnlyTheirOwn := by
  intro s t hst
  rcases step_agents s with hb | hc | hd | he
  · have hn : ∀ e, ¬ s.running e := fun e hr => absurd (hb.symm.trans hr.1) (by decide)
    suffices h : t.hostIn = s.hostIn ∧ t.cr.wsizeCfg = s.cr.wsizeCfg ∧ t.cr.argInLen = s.cr.argInLen from
      ⟨h.1, h.2.1, h.2.2, fun hc => absurd hc (hn _), fun hd => absurd hd (hn _)⟩
    rcases step_idle_cases hb with he | he | he | he | ⟨r, he⟩ <;> rw [he] at hst <;> cases hst <;> exact ⟨rfl, rfl, rfl⟩
  · have h := cmpKept_step hc
    rw [hst] at h
    exact ⟨h.command.hostIn, h.command.wsizeCfg, h.command.argInLen, fun _ => h.dec, fun hd => (not_running_both hc hd).elim⟩
  · have h := decStepKept_step hd
    rw [hst] at h
    exact ⟨h.command.hostIn, h.command.wsizeCfg, h.command.argInLen, fun hc => (not_running_both hc hd).elim, fun _ => h.cmp⟩
  · rw [he] at hst
    cases hst

/-- A step of a running command that begins with `STOP` clear, as every one does under the invariant, fails with PUSH or leaves it
clear. -/
theorem stopFails_step (h : Inv standard s) (hb : s.busy = true) (hst : step s = .next t) (hs : t.tc.stop = true) :
    t.cr.status = statusFail .outputOverflow .push := by
  rcases h.cases with hi | hc | hd
  · exact absurd (hi.symm.trans hb) (by decide)
  · have hk := cmpKept_step hc.running
    rw [hst] at hk
    exact hk.stop hc.cmp.stop hs
  · have hk := decStepKept_step hd.running
    rw [hst] at hk
    exact hk.stop hd.dec.stop hs

/-- Settles O52: the test of `STOP` after every push leaves one status. -/
theorem stopEndsTheCommand : Obligations.StopEndsTheCommand := by
  intro s t h hb hst hs
  unfold State.busy
  rw [stopFails_step h hb hst hs]
  decide

end Sys2Proof.Machine
end

section
/-! SUPPORT. DEC stays on its stream (R31, R82, R150, R275). -/

namespace Sys2Proof.Machine

variable {r s t : State}

/-- `t` reads the input `s` reads, from a place as many bits further on as its stream position is. -/
structure Advanced (s t : State) : Prop where
  input : t.inputBits = s.inputBits
  moved : ∃ k, t.restBits = s.restBits.drop k ∧ 8 * t.bytesTaken + s.dec.nbits = 8 * s.bytesTaken + t.dec.nbits + k

theorem Advanced.refl (s : State) : Advanced s s := ⟨rfl, 0, rfl, rfl⟩

theorem Advanced.trans (h : Advanced r s) (h' : Advanced s t) : Advanced r t where
  input := h'.input.trans h.input
  moved := by
    obtain ⟨j, hj, hpj⟩ := h.moved
    obtain ⟨k, hk, hpk⟩ := h'.moved
    exact ⟨j + k, by rw [hk, hj, List.drop_drop], by omega⟩

theorem SameButReader.inputBits (h : SameButReader s t) : t.inputBits = s.inputBits := by
  have hi : t.hostIn = s.hostIn := congrArg (·.hostIn) h
  have hl : t.tc.inLen = s.tc.inLen := congrArg (·.tc.inLen) h
  rw [State.inputBits, hi, hl, State.inputBits]

theorem TookBits.advanced {k : Nat} (h : TookBits k s t) : Advanced s t := ⟨h.frame.inputBits, k, h.rest, h.position⟩

/-- With an empty `BITBUF` a byte taken is eight bits taken. -/
theorem TookBytes.advanced {bs : List Byte} (h : TookBytes bs s t) (hn : s.dec.nbits = 0) : Advanced s t where
  input := h.frame.inputBits
  moved := by
    have ht := h.taken
    have hnt := h.nbits
    refine ⟨8 * bs.length, ?_, by omega⟩
    rw [State.restBits, State.restBits, hnt, hn, h.rest, bitsOfBytes_append]
    exact (List.drop_left' (length_bitsOfBytes bs)).symm

/-- A row or a flush reads nothing. -/
theorem DecKept.advanced (h : DecKept s t) : Advanced s t := by
  obtain ⟨hbuf, hn, hpos, hfill, -, hinb⟩ : t.dec.bitbuf = s.dec.bitbuf ∧ t.dec.nbits = s.dec.nbits ∧
      t.dec.inPos = s.dec.inPos ∧ t.dec.inFill = s.dec.inFill ∧ t.dec.inEof = s.dec.inEof ∧ t.dec.inb = s.dec.inb := by
    simpa only [DecEngine.bitReader, Prod.mk.injEq] using h.reader
  have hi := h.command.hostIn
  refine ⟨by rw [State.inputBits, State.inputBits, hi, h.inLen], 0, ?_, ?_⟩
  · rw [List.drop_zero, State.restBits, State.restBits, State.restBytes, State.restBytes, hbuf, hn, hpos, hfill, hinb, hi,
      h.inCur, h.inLen]
  · rw [State.bytesTaken, State.bytesTaken, h.inCur, hfill, hpos, hn, Nat.add_zero]

/-- A reader on the stream holds no more bits than were taken from it. -/
theorem ReaderOnStream.nbits_le (h : ReaderOnStream s) (hr : ReaderOk s) (hc : s.tc.inCur ≤ s.tc.inLen) :
    s.dec.nbits ≤ 8 * s.bytesTaken := by
  have hlen := congrArg List.length h
  have hp := hr.inPos
  have ht := hr.taken
  rw [length_restBits, List.length_drop, State.inputBits, length_bitsOfBytes, length_loadBytes, State.restBytes,
    List.length_append, length_loadBytes, length_loadBytes] at hlen
  unfold State.decPosition at hlen
  unfold State.bytesTaken at hlen ⊢
  omega

theorem Advanced.readerOnStream (h : Advanced s t) (hs : ReaderOnStream s) (hn : s.dec.nbits ≤ 8 * s.bytesTaken) :
    ReaderOnStream t ∧ s.decPosition ≤ t.decPosition := by
  obtain ⟨k, hk, hpos⟩ := h.moved
  have hp : t.decPosition = s.decPosition + k := by
    unfold State.decPosition
    omega
  refine ⟨?_, by omega⟩
  have hs : s.restBits = s.inputBits.drop s.decPosition := hs
  rw [ReaderOnStream, hk, hs, List.drop_drop, hp, h.input]

theorem keptByReading_advanced (r : State) : KeptByReading (fun s => ReaderOk s ∧ Advanced r s) (Advanced r) where
  peek k s hs := by
    by_cases hk : 1 ≤ k ∧ k ≤ 8
    · obtain ⟨t, he, ht⟩ := hs.1.peek hk.1 hk.2
      rw [he]
      exact ⟨ht.reader, hs.2.trans ht.advanced⟩
    · unfold peek
      rw [if_pos (by omega)]
      trivial
  consume k s hs := by
    by_cases hk : 1 ≤ k ∧ k ≤ 8
    · rcases hs.1.consume standard hk.1 hk.2 with ⟨-, t, he, ht⟩ | ⟨-, t, he, ht⟩ <;> rw [he]
      · exact ⟨ht.reader, hs.2.trans ht.advanced⟩
      · exact (hs.2.trans ht.advanced).trans ⟨rfl, 0, rfl, rfl⟩
    · unfold consume
      rw [if_pos (by omega)]
      trivial
  dstate d s hs := ⟨{ hs.1 with }, hs.2.trans ⟨rfl, 0, rfl, rfl⟩⟩
  row s t hs hrow := hs.2.trans hrow.advanced

theorem DecBusy.advanced_step (h : DecBusy standard s) : NextHolds (Advanced s) (step s) := by
  refine (keptByReading_advanced s).step ⟨h.dec.reader, .refl s⟩ h.running fun hd => ?_
  have hn := (h.dec.header hd).1
  rcases h.dec.reader.nextByte with ⟨-, t, he, ht⟩ | ⟨b, t, he, ht⟩ <;> rw [he]
  · exact ⟨ht.reader, ht.advanced hn⟩
  · exact ⟨ht.reader, ht.advanced hn⟩

/-- Between commands DEC can only be started, with nothing taken from its input. -/
theorem readerOnStream_step_idle (hb : s.busy = false) (hst : step s = .next t) (hd : t.running .dec) : ReaderOnStream t := by
  rcases step_idle_cases hb with he | he | he | he | ⟨r, he⟩ <;> rw [he] at hst <;> cases hst
  · exact absurd (hb.symm.trans hd.1) (by decide)
  · exact absurd ((fail_busy _ _ _ _).symm.trans hd.1) (by decide)
  · exact (not_running_both ⟨hd.1, rfl⟩ hd).elim
  · exact rfl

/-- Settles O49: a step of DEC reads on from where it was, one of CMP leaves `CMD` at 1, and a command starts at position 0. -/
theorem stepKeepsTheReaderOnTheStream : Obligations.StepKeepsTheReaderOnTheStream := by
  intro s t h hon hst htd
  rcases h.cases with hb | hc | hd
  · exact ⟨readerOnStream_step_idle hb hst htd, fun hr => absurd (hb.symm.trans hr.1) (by decide)⟩
  · have hk := cmpKept_step hc.running
    rw [hst] at hk
    have hcmd : t.cr.cmd = 1 := (hk.command.cmd htd.1).trans hc.running.2
    exact (not_running_both ⟨htd.1, hcmd⟩ htd).elim
  · have ha := hd.advanced_step
    rw [hst] at ha
    have hs := hon hd.running
    have := ha.readerOnStream hs (hs.nbits_le hd.dec.reader h.widths.inCur)
    exact ⟨this.1, fun _ => this.2⟩

end Sys2Proof.Machine
end

section
/-! SUPPORT. The ends and the starts of a command (R232, R293 to R297, R316, R341), the accepted header (R262) and the host port (R33,
R81, R293, R320). -/

namespace Sys2Proof.Machine

variable {P : Config.Params} {s t : State}

/-! ### The end of a command (R297, R310, R311, R316) -/

@[simp] theorem fail_cr_status (P : Config.Params) (e : Engine) (c : Cause) (s : State) :
    (s.fail P e c).cr.status = statusFail (causeKind c) c := by
  cases e <;> rfl

@[simp] theorem fail_cr_argOutCap (P : Config.Params) (e : Engine) (c : Cause) (s : State) :
    (s.fail P e c).cr.argOutCap = lowbits (Config.failOutCap s.freeCount) P.addrW := by
  cases e <;> rfl

@[simp] theorem fail_hostOut (P : Config.Params) (e : Engine) (c : Cause) (s : State) :
    (s.fail P e c).hostOut = overlay (Config.failHostOut s.freeCount) s.tc.outLimit s.hostOut := by
  cases e <;> rfl

@[simp] theorem complete_cr_status (e : Engine) (s : State) : (s.complete e).cr.status = statusOk := by
  cases e <;> rfl

/-- The fields of `STATUS` after a failure hold the numbers of kind and cause. -/
theorem statusErr_fail (k : ErrKind) (c : Cause) : (statusErr (statusFail k c)).toNat = errCode k := by
  cases k <;> cases c <;> rfl

theorem statusCause_fail (k : ErrKind) (c : Cause) : (statusCause (statusFail k c)).toNat = causeCode c := by
  cases k <;> cases c <;> rfl

/-- Settles O32: FAIL and COMPLETE write the command registers and the FSM register, and overlay `HOST_OUT` below `OUT_LIMIT`. -/
theorem takingAnException : Obligations.TakingAnException := by
  intro P e c s w
  dsimp only
  obtain ⟨hwf, hread⟩ := overlay_spec (Config.failHostOut s.freeCount) s.tc.outLimit w
  rw [fail_cr_argOutCap, fail_cr_status, fail_hostOut, statusErr_fail, statusCause_fail]
  refine ⟨Nat.mod_lt _ (Nat.two_pow_pos _), statusBusy_fail _ c, statusDone_fail _ c, statusSuccess_fail _ c, ?_, ?_,
    fun a ha => ?_, hwf, ?_⟩
  · cases c <;> rfl
  · cases c <;> rfl
  · rw [hread, if_neg (Nat.not_lt.2 ha)]
  · cases e <;> rfl

/-- Settles O33: the same for both engines, but for the FSM register. -/
theorem successfulCompletion : Obligations.SuccessfulCompletion := by
  intro e s
  dsimp only
  rw [complete_cr_status]
  refine ⟨?_, by decide, by decide, by decide, by decide, by decide, ?_⟩
  · cases e <;> rfl
  · cases e <;> rfl

/-! ### The accepted header (R262) -/

theorem checkHeader_legal {w : Byte} (h0 : s.dec.hdrByte0 = some 0) (hw : legalWsize w = true) :
    checkHeader P w s = .next (acceptHeader P.tables (loadHeader w s)) := by
  have hl : (loadHeader w s).hdr.litmode = 0 := congrArg (·.getD 0) h0
  have hs : (loadHeader w s).hdr.wsize = w := rfl
  unfold checkHeader
  dsimp only
  rw [hl, hs, hw, if_neg (by decide), if_neg (by decide)]

/-- Settles O27: neither check of HDR1 fails. -/
theorem legalHeaderIsAccepted : Obligations.LegalHeaderIsAccepted := by
  intro w s h0 hw
  have hl : s.dec.hdrByte0.getD 0 = 0 := congrArg (·.getD 0) h0
  refine ⟨_, checkHeader_legal h0 (legalWsize_iff.2 hw), (Nat.shiftLeft_eq _ _).symm, ?_⟩
  conv_rhs => rw [← hl]
  rfl

/-! ### The start of a command (R232, R295, R341) -/

/-- The values of R10 are ones the spec defines the hardware for. -/
theorem standard_wf : standard.wf = true := by decide +kernel

theorem exec_compress_legal (hb : s.busy = false) (hw : legalWsize s.cr.wsizeCfg = true) :
    exec .compress s = .next { s.cmpStarted tPkware with cmp := { (s.cmpStarted tPkware).cmp with
      outb := (s.cmp.outb.write 0 0).write 1 s.cr.wsizeCfg
      outPos := 2 } } := by
  show runCompress standard s = _
  unfold runCompress
  rw [hb, standard_wf, if_neg (by decide), if_neg (by decide)]
  dsimp only
  rw [startCommand_cr_wsizeCfg, if_pos hw, compressStart_eq]
  rfl

theorem exec_decompress (hb : s.busy = false) : exec .decompress s = .next (initDec (s.startCommand 2)) := by
  show runDecompress standard s = _
  unfold runDecompress
  rw [hb, standard_wf]
  rfl

/-- Settles O29: what COMPRESS_START leaves, `OUTB` read cell by cell. -/
theorem compressStarts : Obligations.CompressStarts := by
  intro s hb hw w
  refine ⟨_, exec_compress_legal hb (legalWsize_iff.2 hw), fun a => ?_, ?_⟩
  · show ((s.cmp.outb.write 0 0).write 1 s.cr.wsizeCfg).read a = _
    rw [Memory.read_write (Memory.wf_write w 0 0), Memory.read_write w]
    by_cases h1 : a = 1
    · simp [h1]
    · simp [h1]
  · rw [Nat.shiftLeft_eq]
    rfl

/-- Settles O31: DECOMPRESS tests `BUSY` and the parameters, and no operand. -/
theorem decompressStarts : Obligations.DecompressStarts := fun _ hb => exec_decompress hb

/-! ### The host port (R33, R81, R293, R320) -/

theorem hostWrite_accepts (h : s.accepts = true) (t : State) : hostWrite s t = .next t := if_pos h

theorem hostWriteLength_accepts (P : Config.Params) (n : Nat) (h : s.accepts = true) (t : State) :
    hostWriteLength P n s t = if n < 2 ^ P.addrW then .next t else .refused .valueTooWide := by
  unfold hostWriteLength
  rw [h, hostWrite_accepts h]
  by_cases hn : n < 2 ^ P.addrW
  · rw [if_pos hn, if_neg (by simpa using hn)]
  · rw [if_neg hn, if_pos (by simpa using hn)]

theorem hostSetCmd_one (h : s.accepts = true) : hostSetCmd standard 1 s = exec .compress s := if_pos h

theorem hostSetCmd_two (h : s.accepts = true) : hostSetCmd standard 2 s = exec .decompress s := if_pos h

theorem hostIssue_accepts (P : Config.Params) (c : BitVec 2) (input : List Byte) (w : Byte) (n : Nat) (h : s.accepts = true) :
    hostIssue P c input w n s =
      if 2 ^ P.addrW ≤ input.length ∨ 2 ^ P.addrW ≤ n then .refused .valueTooWide
      else hostSetCmd P c (s.withOperands input w n) := by
  unfold hostIssue
  rw [h]
  rfl

theorem hostRead_busy {α : Type} (v : α) (h : s.busy = true) : hostRead s v = none := if_pos h

theorem hostRead_idle {α : Type} (v : α) (h : s.busy = false) : hostRead s v = some v := if_neg (by rw [h]; decide)

theorem hostReadResult_busy {α : Type} (v : α) (h : s.busy = true) : hostReadResult s v = none := by
  unfold hostReadResult
  rw [h]
  rfl

theorem hostReadResult_idle {α : Type} (v : α) (h : s.busy = false) :
    hostReadResult s v = if statusDone s.cr.status then some v else none := by
  unfold hostReadResult
  rw [h]
  cases statusDone s.cr.status <;> rfl

/-- Settles O60: each write and each read by the rule of its kind. -/
theorem hostPort : Obligations.HostPort := by
  refine ⟨fun P s n h => ⟨hostWriteLength_accepts P n h _, hostWriteLength_accepts P n h _⟩, fun s h => ?_,
    fun P c input w n s h => hostIssue_accepts P c input w n h,
    fun s a h => ⟨hostRead_busy _ h, hostRead_busy _ h, hostRead_busy _ h, hostReadResult_busy _ h, hostReadResult_busy _ h⟩,
    fun s a h => ⟨hostRead_idle _ h, hostRead_idle _ h, hostRead_idle _ h, hostReadResult_idle _ h, hostReadResult_idle _ h⟩⟩
  have hb := (accepts_iff.1 h).1
  exact ⟨fun w => hostWrite_accepts h _, fun a b => hostWrite_accepts h _, fun a b => hostWrite_accepts h _,
    hostSetCmd_one h, hostSetCmd_two h,
    fun hw => ⟨_, (hostSetCmd_one h).trans (exec_compress_legal hb hw), rfl, rfl⟩,
    ⟨_, (hostSetCmd_two h).trans (exec_decompress hb), rfl, rfl⟩⟩

end Sys2Proof.Machine
end

section
/-! SUPPORT. The byte loop downwards (R346) and SHIFT (R237). -/

namespace Sys2Proof.Machine

/-- Moving bytes down, lowest index first, reads each byte before it is overwritten. -/
theorem read_moveBytes_down (d n : Nat) : ∀ (m : Memory) (dst : Nat), m.wf = true → ∀ a,
    (moveBytes m (dst + d) dst n).read a = if dst ≤ a ∧ a < dst + n then m.read (a + d) else m.read a := by
  induction n with
  | zero => intro m dst _ a; rw [if_neg (by omega)]; rfl
  | succ n ih =>
    intro m dst w a
    rw [moveBytes, Nat.add_right_comm, ih _ _ (Memory.wf_write w _ _), Memory.read_write w, Memory.read_write w]
    by_cases ha : a = dst
    · subst ha
      rw [if_neg (by omega), if_pos rfl, if_pos (by omega)]
    · rw [if_neg (c := a = dst) ha]
      by_cases hin : dst + 1 ≤ a ∧ a < dst + 1 + n
      · rw [if_pos hin, if_neg (by omega), if_pos (by omega)]
      · rw [if_neg hin, if_neg (by omega)]

/-- Settles O42: the bytes from `max 4096 LO_VALID` to the end of `WORK` land at `max 4096 LO_VALID - 4096` and on, up to `BASE`. -/
theorem shiftMovesTheWindowDown : Obligations.ShiftMovesTheWindowDown := by
  intro s w hc
  unfold shift
  rw [if_neg (Nat.not_lt.2 hc)]
  refine ⟨_, rfl, fun a => ?_, rfl, rfl⟩
  have hlo : s.loValid = s.base - 4096 * s.cmp.round := rfl
  have hwork : s.workSize = s.base + 4096 := rfl
  obtain ⟨dst, hdst⟩ : ∃ dst, max 4096 s.loValid = dst + 4096 := ⟨max 4096 s.loValid - 4096, by omega⟩
  have hn : dst + (s.workSize - (dst + 4096)) = s.base := by omega
  show (moveBytes s.cmp.work (max 4096 s.loValid) (max 4096 s.loValid - 4096) (s.workSize - max 4096 s.loValid)).read a = _
  rw [hdst, Nat.add_sub_cancel, read_moveBytes_down _ _ _ _ w, hn]

end Sys2Proof.Machine
end

section
/-! SUPPORT. The jump tables name the class of every pattern (R178, R179). -/

namespace Sys2Proof.Machine

theorem getD_tableOf (f : Nat → Nat) (n : Nat) : ∀ x y, y < n → (tableOf f x n).getD y 0 = f (x + y) := by
  induction n with
  | zero => intro x y hy; exact absurd hy (Nat.not_lt_zero y)
  | succ n ih =>
    intro x y hy
    cases y with
    | zero => rfl
    | succ y =>
      rw [tableOf, List.getD_cons_succ, ih (x + 1) y (Nat.lt_of_succ_lt_succ hy), Nat.add_assoc, Nat.add_comm 1]

theorem length_claimCells (i step fuel : Nat) : ∀ cells p, (claimCells i step cells p fuel).length = cells.length := by
  induction fuel with
  | zero => intro cells p; rfl
  | succ fuel ih =>
    intro cells p
    rw [claimCells]
    split_ifs
    · rw [ih, List.length_set]
    · exact ih _ _
    · rfl

/-- One step of the inner loop: an unwritten cell is claimed. -/
theorem getD_claim {cells : List (Option Nat)} (hl : cells.length = 256) (i p : Nat) {x : Nat} (hx : x < 256) :
    (if (cells.getD p none).isNone then cells.set p (some i) else cells).getD x none =
      (cells.getD x none).or (if x = p then some i else none) := by
  by_cases hxp : x = p
  · subst hxp
    rw [if_pos rfl]
    cases hc : cells.getD x none with
    | none => simp [hl, hx]
    | some j => simpa using hc
  · rw [if_neg hxp, Option.or_none]
    split_ifs
    · simp [List.getElem?_set_ne (Ne.symm hxp)]
    · rfl

/-- The inner loop claims every `step`-th cell from `p` on that is unwritten. -/
theorem getD_claimCells (i : Nat) {step : Nat} (hstep : 1 ≤ step) {x : Nat} (hx : x < 256) (fuel : Nat) : ∀ cells p,
    cells.length = 256 → 256 ≤ p + fuel → (claimCells i step cells p fuel).getD x none =
      (cells.getD x none).or (if p ≤ x ∧ (x - p) % step = 0 then some i else none) := by
  induction fuel with
  | zero =>
    intro cells p _ hp
    rw [if_neg (by omega), Option.or_none]
    rfl
  | succ fuel ih =>
    intro cells p hl hp
    rw [claimCells]
    by_cases h256 : p < 256
    · rw [if_pos h256, ih _ _ (by split_ifs <;> simp [hl]) (by omega), getD_claim hl i p hx, Option.or_assoc]
      congr 1
      by_cases hxp : x = p
      · subst hxp
        rw [if_pos rfl, Option.some_or, if_pos ⟨Nat.le_refl x, by rw [Nat.sub_self, Nat.zero_mod]⟩]
      · rw [if_neg hxp, Option.none_or]
        refine if_congr ?_ rfl rfl
        constructor
        · rintro ⟨hle, hmod⟩
          exact ⟨by omega, by rw [show x - p = x - (p + step) + step by omega, Nat.add_mod_right, hmod]⟩
        · rintro ⟨hle, hmod⟩
          have hge : step ≤ x - p := Nat.le_of_dvd (by omega) (Nat.dvd_of_mod_eq_zero hmod)
          exact ⟨by omega, by rwa [show x - p = x - (p + step) + step by omega, Nat.add_mod_right] at hmod⟩
    · rw [if_neg h256, if_neg (by omega), Option.or_none]

/-- A code that fits its width is the low bits of `x` exactly where the inner loop reaches `x`. -/
theorem lowbits_eq_iff_reached {n c : Nat} (hc : c < 2 ^ n) (x : Nat) : lowbits x n = c ↔ c ≤ x ∧ (x - c) % 2 ^ n = 0 := by
  unfold lowbits
  constructor
  · rintro rfl
    exact ⟨Nat.mod_le _ _, Nat.sub_mod_eq_zero_of_mod_eq (Nat.mod_mod _ _).symm⟩
  · rintro ⟨hle, hmod⟩
    rw [← Nat.sub_add_cancel hle, Nat.add_mod, hmod, Nat.zero_add, Nat.mod_mod, Nat.mod_eq_of_lt hc]

/-- The outer loop gives every unwritten cell the first class whose code fits. -/
theorem getD_claimAll {x : Nat} (hx : x < 256) (bits : List Nat) : ∀ codes i cells,
    (∀ p ∈ bits.zip codes, p.2 < 2 ^ p.1) → cells.length = 256 →
      (claimAll bits codes i cells).getD x none = (cells.getD x none).or (classOf bits codes x i) := by
  induction bits with
  | nil => intro codes i cells _ _; exact (Option.or_none).symm
  | cons n ns ih =>
    intro codes i cells hfit hl
    cases codes with
    | nil => exact (Option.or_none).symm
    | cons c cs =>
      have hc : c < 2 ^ n := hfit (n, c) List.mem_cons_self
      rw [claimAll, ih cs (i + 1) _ (fun p hp => hfit p (List.mem_cons_of_mem _ hp)) ((length_claimCells _ _ _ _ _).trans hl),
        getD_claimCells i (Nat.two_pow_pos n) hx 256 cells c hl (Nat.le_add_left _ _), Option.or_assoc, classOf]
      congr 1
      by_cases hlow : lowbits x n = c
      · rw [if_pos hlow, if_pos ((lowbits_eq_iff_reached hc x).1 hlow), Option.some_or]
      · rw [if_neg hlow, if_neg (mt (lowbits_eq_iff_reached hc x).2 hlow), Option.none_or]

/-- BUILD_JUMP, for any class codes that fit their widths: each cell holds the first class whose code the pattern begins with. -/
theorem getD_buildJump {bits codes : List Nat} (hfit : ∀ p ∈ bits.zip codes, p.2 < 2 ^ p.1) {x : Nat} (hx : x < 256) :
    (buildJump bits codes).getD x 0 = (classOf bits codes x 0).getD 0 := by
  unfold buildJump
  dsimp only
  rw [getD_tableOf _ _ _ _ hx, Nat.zero_add, getD_claimAll hx bits codes 0 _ hfit List.length_replicate, List.getD_replicate _ hx,
    Option.none_or]

theorem classOf_lt {x c : Nat} (bits : List Nat) : ∀ codes i, classOf bits codes x i = some c → c < i + bits.length := by
  induction bits with
  | nil => intro codes i h; cases h
  | cons n ns ih =>
    intro codes i h
    cases codes with
    | nil => cases h
    | cons d ds =>
      rw [classOf] at h
      rw [List.length_cons]
      split_ifs at h
      · cases h
        omega
      · have := ih ds (i + 1) h
        omega

/-- `LENJ` of `T_PKWARE` at a pattern that begins with a length code. -/
theorem getD_builtLenj {x c : Nat} (hx : x < 256) (h : lenClass tPkware x = some c) : (builtLenj tPkware).getD x 0 = c := by
  unfold builtLenj
  rw [getD_buildJump (by decide) hx]
  exact congrArg (·.getD 0) h

end Sys2Proof.Machine
end

section
/-! SUPPORT. Fetching a token whose bits decode (R180, R263 to R265): the fetch answers the decoded row, in a state just after its
bits. -/

namespace Sys2Proof.Machine

variable {r s t : State}

theorem SameButReader.setDstate (h : SameButReader s t) (d : DState) : SameButReader (s.setDstate d) (t.setDstate d) := by
  unfold SameButReader at *
  rw [h]
  rfl

theorem TookBits.setDstate {k : Nat} (h : TookBits k s t) (d : DState) : TookBits k (s.setDstate d) (t.setDstate d) where
  frame := h.frame.setDstate d
  reader := { h.reader with }
  rest := h.rest
  position := h.position

/-- What it takes for a length row to decode: its class, its code and its extra bits. -/
theorem decodeLength_eq_ok {T : Config.CodeTables} {bits rest : List Bool} {i : Instr} (h : decodeLength T bits = .ok (i, rest)) :
    ∃ c, lenClass T (peekBits 8 bits) = some c ∧ lenBits T c ≤ bits.length ∧
      lenExtra T c ≤ (bits.drop (lenBits T c)).length ∧
      lenInstr T c (natOfBits ((bits.drop (lenBits T c)).take (lenExtra T c))) = some i ∧
      rest = (bits.drop (lenBits T c)).drop (lenExtra T c) := by
  unfold decodeLength at h
  split at h
  · cases h
  · next c hc =>
    split at h
    · cases h
    · next v r hr =>
      obtain ⟨hlen, -, rfl⟩ := takeBits_eq_some.1 hr
      split at h
      · cases h
      · next e r' he =>
        obtain ⟨hext, rfl, rfl⟩ := takeBits_eq_some.1 he
        split at h
        · cases h
        · next j hj =>
          cases h
          exact ⟨c, hc, hlen, hext, hj, rfl⟩

/-- Only a length class's row, or END, comes from a length class. -/
theorem lenParts_of_lenInstr {T : Config.CodeTables} {c e : Nat} {i : Instr} (h : lenInstr T c e = some i) :
    i.lenParts T ≠ none := by
  unfold lenInstr at h
  split_ifs at h
  · cases h
    exact Option.some_ne_none _
  · split at h <;> cases h <;> exact Option.some_ne_none _

/-- The length codes of `T_PKWARE` are read by one PEEK and the extra bits by one READ (R171, R172). -/
theorem lenBits_tPkware : ∀ c < 16, 1 ≤ lenBits tPkware c ∧ lenBits tPkware c ≤ 8 ∧ lenExtra tPkware c ≤ 8 := by decide

/-- The extra bits of a class, as many as it has. -/
theorem ReaderOk.readExtra (P : Config.Params) (h : ReaderOk s) {c : Nat} (h8 : lenExtra P.tables c ≤ 8)
    (hk : lenExtra P.tables c ≤ s.restBits.length) :
    ∃ t, Machine.readExtra P c s = .ok (natOfBits (s.restBits.take (lenExtra P.tables c))) t ∧ TookBits (lenExtra P.tables c) s t := by
  unfold Machine.readExtra
  by_cases h0 : lenExtra P.tables c = 0
  · rw [if_pos h0, h0]
    exact ⟨s, rfl, .refl h⟩
  · rw [if_neg h0]
    exact h.readBits P (Nat.pos_of_ne_zero h0) h8 hk

/-- DECODE_LEN finds the class in `LENJ`, takes its code, and reads its extra bits. -/
theorem ReaderOk.decodeLen (h : ReaderOk s) (hj : s.dec.lenj = builtLenj tPkware) {c : Nat}
    (hc : lenClass tPkware (peekBits 8 s.restBits) = some c) (hlen : lenBits tPkware c ≤ s.restBits.length)
    (hext : lenExtra tPkware c ≤ (s.restBits.drop (lenBits tPkware c)).length) :
    ∃ t, Machine.decodeLen standard s =
        .ok (c, natOfBits ((s.restBits.drop (lenBits tPkware c)).take (lenExtra tPkware c))) t ∧
      TookBits (lenBits tPkware c + lenExtra tPkware c) s t := by
  obtain ⟨hb1, hb8, he8⟩ := lenBits_tPkware c ((classOf_lt _ _ _ hc).trans_eq (Nat.zero_add 16))
  obtain ⟨t, hpeek, ht⟩ := h.peek (k := 8) (by decide) (Nat.le_refl 8)
  have hrt : t.restBits = s.restBits := ht.rest
  have hx : peekBits 8 s.restBits < 256 :=
    (natOfBits_lt _).trans_le (Nat.pow_le_pow_right (by decide) (List.length_take_le 8 _))
  have hcell : t.dec.lenj.getD (peekBits 8 s.restBits) 0 = c := by
    have hl : t.dec.lenj = s.dec.lenj := congrArg (·.dec.lenj) ht.frame
    rw [hl, hj, getD_builtLenj hx hc]
  obtain ⟨u, hcons, hu⟩ : ∃ u, Machine.consume standard (lenBits tPkware c) t = .ok () u ∧ TookBits (lenBits tPkware c) t u := by
    rcases ht.reader.consume standard hb1 hb8 with ⟨-, hu⟩ | ⟨hlt, -⟩
    · exact hu
    · rw [hrt] at hlt
      omega
  have hru : u.restBits = s.restBits.drop (lenBits tPkware c) := by rw [hu.rest, hrt]
  obtain ⟨v, hextra, hv⟩ := hu.reader.readExtra standard (c := c) he8 (hru ▸ hext)
  refine ⟨v, ?_, ?_⟩
  · unfold Machine.decodeLen
    rw [hpeek, Res.bind_ok]
    dsimp only
    rw [show natOfBits (s.restBits.take 8) = peekBits 8 s.restBits from rfl, hcell]
    show (Machine.consume standard (lenBits tPkware c) t).bind _ = _
    rw [hcons, Res.bind_ok, hextra, Res.bind_ok, hru]
    rfl
  · have := (ht.trans hu).trans hv
    rwa [Nat.zero_add] at this

/-- A length row, or END, that the bits decode to. -/
theorem ReaderOk.fetchLength (h : ReaderOk s) (hj : s.dec.lenj = builtLenj tPkware) {i : Instr} {rest : List Bool}
    (hd : decodeLength tPkware s.restBits = .ok (i, rest)) :
    i.lenParts tPkware ≠ none ∧
      ∃ t, Machine.fetchLength standard s = .ok i t ∧ t.restBits = rest ∧ ReaderOk t ∧ SameButReader s t := by
  obtain ⟨c, hc, hlen, hext, hi, rfl⟩ := decodeLength_eq_ok hd
  obtain ⟨t, he, ht⟩ := h.decodeLen hj hc hlen hext
  have hi' : lenInstr standard.tables c _ = some i := hi
  refine ⟨lenParts_of_lenInstr hi, t, ?_, by rw [ht.rest, List.drop_drop], ht.reader, ht.frame⟩
  unfold Machine.fetchLength
  rw [he, Res.bind_ok]
  dsimp only
  rw [hi']

/-- The literal that the bits decode to. -/
theorem ReaderOk.fetchLiteral (h : ReaderOk s) {i : Instr} {rest : List Bool}
    (hd : decodeByte .lit s.restBits = .ok (i, rest)) :
    i.lenParts tPkware = none ∧
      ∃ t, Machine.fetchLiteral standard s = .ok i t ∧ t.restBits = rest ∧ ReaderOk t ∧ SameButReader s t := by
  unfold decodeByte at hd
  split at hd
  · cases hd
  · next b r hb =>
    obtain ⟨hlen, rfl, rfl⟩ := takeBits_eq_some.1 hb
    cases hd
    obtain ⟨t, he, ht⟩ := h.readBits standard (k := 8) (by decide) (Nat.le_refl 8) hlen
    refine ⟨rfl, t, ?_, ht.rest, ht.reader, ht.frame⟩
    unfold Machine.fetchLiteral
    rw [he]
    rfl

/-- SELECT takes the first bit and passes to the state of its row (R263). -/
theorem ReaderOk.select (h : ReaderOk s) {b : Bool} {bits : List Bool} (hb : s.restBits = b :: bits) (d : DState) :
    ∃ t, Machine.readBits standard 1 s = .ok b.toNat t ∧ (t.setDstate d).restBits = bits ∧ ReaderOk (t.setDstate d) ∧
      SameButReader (s.setDstate d) (t.setDstate d) := by
  obtain ⟨t, he, ht⟩ := h.readBits standard (k := 1) (Nat.le_refl 1) (by decide) (by simp [hb])
  have hd := ht.setDstate d
  have hr : (t.setDstate d).restBits = s.restBits.drop 1 := hd.rest
  refine ⟨t, ?_, by rw [hr, hb, List.drop_one, List.tail_cons], hd.reader, hd.frame⟩
  rw [he, hb]
  rfl

/-- The token row that the bits decode to: SELECT, then the literal or the length row. -/
theorem ReaderOk.fetchToken (h : ReaderOk s) (hj : s.dec.lenj = builtLenj tPkware) {i : Instr} {rest : List Bool}
    (hd : decodeToken tPkware s.restBits = .ok (i, rest)) :
    ∃ t, Machine.fetchToken standard s = .ok i t ∧ t.restBits = rest ∧ ReaderOk t ∧
      SameButReader (s.setDstate (if i.lenParts tPkware = none then .literal else .copy)) t := by
  unfold decodeToken at hd
  split at hd
  · cases hd
  · next bits hb =>
    obtain ⟨t, he, hrt, ht, hframe⟩ := h.select hb .literal
    obtain ⟨hi, u, hu, hru, hou, hfu⟩ := ht.fetchLiteral (hrt.symm ▸ hd)
    rw [if_pos hi]
    refine ⟨u, ?_, hru, hou, hframe.trans hfu⟩
    unfold Machine.fetchToken
    rw [he]
    exact hu
  · next bits hb =>
    obtain ⟨t, he, hrt, ht, hframe⟩ := h.select hb .copy
    have hjt : (t.setDstate .copy).dec.lenj = builtLenj tPkware := (congrArg (·.dec.lenj) hframe).trans hj
    obtain ⟨hi, u, hu, hru, hou, hfu⟩ := ht.fetchLength hjt (hrt.symm ▸ hd)
    rw [if_neg hi]
    refine ⟨u, ?_, hru, hou, hframe.trans hfu⟩
    unfold Machine.fetchToken
    rw [he]
    exact hu

/-- A step of DEC executes the row its fetch answers. -/
theorem step_of_decFetch {i : Instr} (hs : s.running .dec) (hf : decFetch standard s = .instr i t) : step s = exec i t := by
  rw [step_dec hs, hf]

/-- Settles O9: what the fetch takes is what the decoder takes. -/
theorem stepRunsTheDecodedToken : Obligations.StepRunsTheDecodedToken := by
  intro s i rest hs hr hj hd hdec
  obtain ⟨t, ht, hrest, hok, hframe⟩ := hr.fetchToken hj hdec
  refine ⟨t, step_of_decFetch hs ?_, hrest, hok, hframe⟩
  unfold decFetch
  rw [hd]
  exact congrArg Res.fetched ht

end Sys2Proof.Machine
end

section
/-! SUPPORT. The reset state (R340), STAGE (R233) and the copy of an offset row (R267, R268, R345). -/

namespace Sys2Proof.Machine

/-! ### Power-on reset (R340) -/

theorem memoriesOk_reset : MemoriesOk standard State.reset where
  hostIn := rfl
  hostOut := rfl
  work := rfl
  outb := rfl
  inb := rfl
  win := rfl
  workIn := rfl
  outbIn := rfl
  inbIn := rfl
  winIn := rfl
  htab := List.length_replicate
  idx := List.length_replicate

theorem widthsOk_reset : WidthsOk standard State.reset := by
  constructor <;> decide

/-- Settles O45: no command runs at reset, so only the memories and the widths are to be looked at. -/
theorem resetHasTheInvariant : Obligations.ResetHasTheInvariant :=
  Bounded.inv_of_idle ⟨memoriesOk_reset, widthsOk_reset⟩ (by decide) (fun _ => rfl)

/-! ### STAGE (R233) -/

/-- Settles O41: one PULL to `BASE`, and the registers computed from its size. -/
theorem stageLoadsTheNextChunk : Obligations.StageLoadsTheNextChunk := by
  intro s w
  dsimp only
  have hend : (decide (pullCount s 4096 < 4096) || s.cmp.ended) = if pullCount s 4096 < 4096 then true else s.cmp.ended := by
    by_cases h : pullCount s 4096 < 4096 <;> simp [h]
  refine ⟨_, rfl, (pull_read w s.base 4096 s).2, ?_⟩
  rw [show min 4096 (s.tc.inLen - s.tc.inCur) = pullCount s 4096 from rfl, hend]
  rfl

/-! ### The copy of an offset row (R267, R268) -/

/-- Moving bytes upwards, lowest index first: each byte written equals the one as far before it as the source is, also where that
byte was written by the same move (R345). -/
theorem read_moveBytes_up (n : Nat) : ∀ (m : Memory) (src dst : Nat), m.wf = true → src < dst → ∀ j < n,
    (moveBytes m src dst n).read (dst + j) = (moveBytes m src dst n).read (src + j) := by
  induction n with
  | zero => intro m src dst _ _ j hj; exact absurd hj (Nat.not_lt_zero j)
  | succ n ih =>
    intro m src dst w hlt j hj
    have w' := Memory.wf_write w dst (m.read src)
    rw [moveBytes]
    cases j with
    | zero =>
      have hframe := (moveBytes_frame n (m.write dst (m.read src)) (src + 1) (dst + 1) w').2
      simp only [Nat.add_zero]
      rw [hframe dst (by omega), hframe src (by omega), Memory.read_write w, Memory.read_write w, if_pos rfl, if_neg (by omega)]
    | succ j =>
      have := ih _ (src + 1) (dst + 1) w' (by omega) j (by omega)
      rwa [Nat.add_right_comm, Nat.add_right_comm src] at this

theorem exec_of_distParts {i : Instr} {c : Nat} {low : Low} (h : i.distParts = some (c, low)) (s : State) :
    exec i s = copyFromOffset standard c low s := by
  rw [exec_eq_execWith]
  cases i <;> simp only [Instr.distParts, reduceCtorEq, Option.some.injEq, Prod.mk.injEq] at h <;>
    (obtain ⟨rfl, rfl⟩ := h; rfl)

/-- `s` after a copy of `T_LEN` bytes from `off + 1` before the write cursor (R265, R268). -/
def State.copied (off : Nat) (s : State) : State :=
  { s with dec := { s.dec with
    tOff := off
    offNext := false
    win := moveBytes s.dec.win (s.dec.wpos - (off + 1)) s.dec.wpos s.dec.tLen
    wpos := s.dec.wpos + s.dec.tLen
    src := s.dec.wpos - (off + 1) + s.dec.tLen
    hist := min (s.dec.hist + s.dec.tLen) Config.decHist
    dstate := .flush } }

/-- An offset inside the history, with room for the copy: neither the exception nor a fault. -/
theorem copyFromOffset_eq {P : Config.Params} {c : Nat} {low : Low} {s : State} (hh : offsetOf c low + 1 ≤ s.dec.hist)
    (hlo : offsetOf c low + 1 ≤ s.dec.wpos) (hhi : s.dec.wpos + s.dec.tLen ≤ P.decWinSize) :
    copyFromOffset P c low s = .next (s.copied (offsetOf c low)) := by
  unfold copyFromOffset copyExec
  dsimp only
  rw [if_neg (Nat.not_lt.2 hh), if_neg (by omega)]
  rfl

/-- Settles O23: the copy reads back as it was made, and touches nothing below or above its destination. -/
theorem offsetRowCopies : Obligations.OffsetRowCopies := by
  intro i c low s hi w hh hlo hhi
  refine ⟨s.copied (offsetOf c low), ?_, fun j hj => ?_, fun a ha => ?_, rfl⟩
  · rw [exec_of_distParts hi, copyFromOffset_eq hh hlo hhi]
  · have := read_moveBytes_up s.dec.tLen s.dec.win (s.dec.wpos - (offsetOf c low + 1)) s.dec.wpos w (by omega) j hj
    rwa [← Nat.sub_add_comm hlo] at this
  · exact (moveBytes_frame _ _ _ _ w).2 a ha

end Sys2Proof.Machine
end

section
/-! SUPPORT. Bytes appended to a memory, and bits packed into bytes (R71, R73, R74). -/

namespace Sys2Proof.Machine

theorem loadBytes_write_end {m : Memory} (w : m.wf = true) (n : Nat) (b : Byte) :
    loadBytes (m.write n b) 0 (n + 1) = loadBytes m 0 n ++ [b] := by
  rw [loadBytes_add, loadBytes, loadBytes, Nat.zero_add, Memory.read_write w, if_pos rfl]
  congr 1
  refine loadBytes_congr n 0 0 fun i hi => ?_
  rw [Memory.read_write w, if_neg (by omega)]

/-- What a push leaves in the output: what was there, then the chunk (R292). -/
theorem loadBytes_push {src dst : Memory} (w : dst.wf = true) (sa k n : Nat) :
    loadBytes (copyCells src sa dst k n) 0 (k + n) = loadBytes dst 0 k ++ loadBytes src sa n := by
  rw [loadBytes_add, Nat.zero_add, loadBytes_copyCells w]
  congr 1
  refine loadBytes_congr k 0 0 fun i hi => ?_
  rw [(copyCells_spec src n sa dst k w).2, if_neg (by omega)]

/-! ### Packing -/

theorem length_packBits (n : Nat) : ∀ bits, (packBits n bits).length = n := by
  induction n with
  | zero => intro bits; rfl
  | succ n ih => intro bits; rw [packBits, List.length_cons, ih]

theorem length_packAll (bits : List Bool) : (packAll bits).length = (bits.length + 7) / 8 := length_packBits _ _

theorem packBits_bitsOfBytes (n : Nat) (bits : List Bool) : ∀ bs : List Byte,
    packBits (bs.length + n) (bitsOfBytes bs ++ bits) = bs ++ packBits n bits := by
  intro bs
  induction bs with
  | nil => rw [List.length_nil, Nat.zero_add]; rfl
  | cons b bs ih =>
    have h8 : BitVec.ofNat 8 (natOfBits (bitsOfNat 8 b.toNat)) = b := by
      rw [natOfBits_bitsOfNat, Nat.mod_eq_of_lt b.isLt, BitVec.ofNat_toNat, BitVec.setWidth_eq]
    rw [List.length_cons, Nat.succ_add, bitsOfBytes, List.append_assoc, packBits, List.take_left' (length_bitsOfNat 8 _),
      List.drop_left' (length_bitsOfNat 8 _), ih, h8, List.cons_append]

/-- Whole bytes pack into themselves. -/
theorem packAll_bitsOfBytes (bs : List Byte) (bits : List Bool) : packAll (bitsOfBytes bs ++ bits) = bs ++ packAll bits := by
  rw [packAll, List.length_append, length_bitsOfBytes, show (8 * bs.length + bits.length + 7) / 8 = bs.length + (bits.length + 7) / 8
    by omega, packBits_bitsOfBytes, packAll]

/-- A last byte begun is filled up with zeros. -/
theorem packAll_bitsOfNat {n : Nat} (h1 : 1 ≤ n) (h8 : n ≤ 8) {b : Byte} (hb : b.toNat < 2 ^ n) :
    packAll (bitsOfNat n b.toNat) = [b] := by
  rw [packAll, length_bitsOfNat, show (n + 7) / 8 = 1 by omega, packBits, packBits,
    List.take_of_length_le ((length_bitsOfNat n _).trans_le h8), natOfBits_bitsOfNat, Nat.mod_eq_of_lt hb, BitVec.ofNat_toNat,
    BitVec.setWidth_eq]

theorem packAll_nil : packAll [] = [] := rfl

end Sys2Proof.Machine
end

section
/-! SUPPORT. What the write side leaves in the output (R140 to R144): the bytes stored and the bits written so far, in pushes of 2048
bytes, unless a push did not fit. -/

namespace Sys2Proof.Machine

variable {s t : State} {bs : List Byte} {bits : List Bool}

/-! ### Bytes (R141, R142) -/

/-- `t` is `s` after bytes were stored: `bs` are all bytes there are then, or would be had no push failed. -/
structure Stored (bs : List Byte) (s t : State) : Prop where
  frame   : SameButWriter s t
  hostOut : t.hostOut.wf = true
  outb    : t.cmp.outb.wf = true
  outPos  : t.cmp.outPos ≤ 2047
  bytes   : t.tc.stop = false → t.packedBytes = bs
  pushed  : ∃ k, t.tc.outCur = s.tc.outCur + 2048 * k ∧ t.xfers = List.replicate k (.push 2048) ++ s.xfers ∧
              (k = 0 → t.hostOut = s.hostOut)
  full    : t.tc.stop = true → t.cmp.outPos = 0 ∧ t.tc.outLimit < t.tc.outCur + 2048 ∧ t.tc.outCur + 2048 ≤ bs.length

theorem length_packedBytes (s : State) : s.packedBytes.length = s.tc.outCur + s.cmp.outPos := by
  rw [State.packedBytes, List.length_append, length_loadBytes, length_loadBytes]

theorem Stored.refl (hout : s.hostOut.wf = true) (houtb : s.cmp.outb.wf = true) (hp : s.cmp.outPos ≤ 2047)
    (hs : s.tc.stop = false) : Stored s.packedBytes s s where
  frame := rfl
  hostOut := hout
  outb := houtb
  outPos := hp
  bytes _ := rfl
  pushed := ⟨0, rfl, rfl, fun _ => rfl⟩
  full h := absurd (hs.symm.trans h) (by decide)

/-- STORE_BYTE appends its byte (R141); with the 2048th, all are pushed or `STOP` is set (R142). -/
theorem Stored.storeByte (h : Stored bs s t) (b : Byte) :
    ∃ u, storeByte b t = .ok () u ∧ Stored (bs ++ [b]) s u ∧ u.cmp.acc = t.cmp.acc ∧ u.cmp.nacc = t.cmp.nacc := by
  have hp := h.outPos
  have hw := Memory.wf_write h.outb t.cmp.outPos b
  have hlen : t.tc.stop = false → bs.length = t.tc.outCur + t.cmp.outPos := fun hs => by rw [← h.bytes hs, length_packedBytes]
  have hbytes : t.tc.stop = false → loadBytes t.hostOut 0 t.tc.outCur ++
      loadBytes (t.cmp.outb.write t.cmp.outPos b) 0 (t.cmp.outPos + 1) = bs ++ [b] := fun hs => by
    rw [loadBytes_write_end h.outb, ← List.append_assoc, ← h.bytes hs]
    rfl
  have hlb : (bs ++ [b]).length = bs.length + 1 := List.length_append
  have hframe := h.frame.storeByte (E := fun _ => True) b
  rcases storeByte_cases b t with ⟨hs, he⟩ | ⟨-, hbig, -⟩ | ⟨hs, hlt, he⟩ | ⟨hs, hlast, he⟩
  · obtain ⟨h0, hlim, hfull⟩ := h.full hs
    exact ⟨t, he, { h with bytes := fun hr => absurd (hs.symm.trans hr) (by decide), full := fun _ => ⟨h0, hlim, by omega⟩ }, rfl, rfl⟩
  · omega
  · exact ⟨_, he, { h with
      frame := h.frame.trans rfl
      outb := hw
      outPos := hlt
      bytes := fun _ => hbytes hs
      full := fun hr => absurd (hs.symm.trans hr) (by decide) }, rfl, rfl⟩
  · have hall := hbytes hs
    have hn := hlen hs
    obtain ⟨k, hcur, hx, hk⟩ := h.pushed
    rw [hlast] at hn
    rw [he] at hframe ⊢
    rcases flushOutb_cases { t with cmp := { t.cmp with
        outb := t.cmp.outb.write t.cmp.outPos b, outPos := t.cmp.outPos + 1 } } with ⟨hs', -⟩ | ⟨-, hlim, he'⟩ | ⟨-, hlim, he'⟩
    · exact absurd (hs.symm.trans hs') (by decide)
    · refine ⟨_, he', { h with
        frame := h.frame.trans rfl
        outb := hw
        outPos := Nat.zero_le _
        bytes := fun hr => by cases hr
        full := fun _ => ⟨rfl, hlim, ?_⟩ }, rfl, rfl⟩
      show t.tc.outCur + 2048 ≤ (bs ++ [b]).length
      omega
    · rw [he'] at hframe
      -- The size by a name, so that no check of a field runs the byte loop.
      generalize hN : Config.outbSize = N at he' hframe
      obtain rfl : t.cmp.outPos + 1 = N := (congrArg (· + 1) hlast).trans hN
      refine ⟨_, he', { h with
        frame := hframe
        hostOut := (copyCells_spec _ _ _ _ _ h.hostOut).1
        outb := hw
        outPos := Nat.zero_le _
        bytes := fun _ => ?_
        pushed := ⟨k + 1, ?_, ?_, fun h0 => absurd h0 (Nat.succ_ne_zero k)⟩
        full := fun hr => absurd (hs.symm.trans hr) (by decide) }, rfl, rfl⟩
      · rw [← hbytes hs]
        exact (List.append_nil _).trans (loadBytes_push h.hostOut 0 t.tc.outCur _)
      · show t.tc.outCur + (t.cmp.outPos + 1) = s.tc.outCur + 2048 * (k + 1)
        omega
      · show Transfer.push (t.cmp.outPos + 1) :: t.xfers = List.replicate (k + 1) (.push 2048) ++ s.xfers
        rw [hlast, hx, List.replicate_succ, List.cons_append]

theorem Stored.clearAcc (h : Stored bs s t) : Stored bs s (clearAcc t) := { h with frame := h.frame.trans rfl }

theorem Stored.addToAcc (h : Stored bs s t) (take v : Nat) : Stored bs s (addToAcc take v t) :=
  { h with frame := h.frame.trans rfl }

/-! ### Bits (R143) -/

/-- The bits put into `ACC` stand above those already there. -/
theorem bitsOfNat_addToAcc {take : Nat} (v : Nat) (hn : t.cmp.nacc + take ≤ 8) (ha : t.cmp.acc.toNat < 2 ^ t.cmp.nacc) :
    bitsOfNat (t.cmp.nacc + take) (addToAcc take v t).cmp.acc.toNat =
      bitsOfNat t.cmp.nacc t.cmp.acc.toNat ++ bitsOfNat take v := by
  have hlow : lowbits v take < 2 ^ take := Nat.mod_lt _ (Nat.two_pow_pos take)
  have hlt : lowbits v take * 2 ^ t.cmp.nacc < 2 ^ 8 :=
    calc lowbits v take * 2 ^ t.cmp.nacc < 2 ^ take * 2 ^ t.cmp.nacc := Nat.mul_lt_mul_of_pos_right hlow (Nat.two_pow_pos _)
      _ = 2 ^ (t.cmp.nacc + take) := by rw [← pow_add, Nat.add_comm]
      _ ≤ 2 ^ 8 := Nat.pow_le_pow_right (by decide) hn
  rw [addToAcc_cmp_acc, BitVec.toNat_or, BitVec.toNat_ofNat, Nat.mod_eq_of_lt hlt, Nat.mul_comm, Nat.or_comm,
    ← Nat.two_pow_add_eq_or_of_lt ha, ← bitsOfNat_append ha]
  congr 1
  exact bitsOfNat_mod take v

/-- The bits of whole bytes `bs` and of what `ACC` holds. -/
def State.bitsAfter (bs : List Byte) (t : State) : List Bool := bitsOfBytes bs ++ bitsOfNat t.cmp.nacc t.cmp.acc.toNat

theorem length_bitsAfter (bs : List Byte) (t : State) : (t.bitsAfter bs).length = 8 * bs.length + t.cmp.nacc := by
  rw [State.bitsAfter, List.length_append, length_bitsOfBytes, length_bitsOfNat]

/-- The loop of WRITE_BITS appends its bits, whether or not a push fails on the way. -/
theorem Stored.writeLoop (fuel : Nat) : ∀ {n v : Nat} {t : State} {bs : List Byte}, n ≤ fuel → Stored bs s t → AccOk t →
    ∃ u cs, writeLoop fuel n v t = .ok () u ∧ Stored cs s u ∧ AccOk u ∧ u.bitsAfter cs = t.bitsAfter bs ++ bitsOfNat n v := by
  induction fuel with
  | zero =>
    intro n v t bs hn h ha
    obtain rfl := Nat.le_zero.1 hn
    exact ⟨t, bs, rfl, h, ha, (List.append_nil _).symm⟩
  | succ fuel ih =>
    intro n v t bs hn h ha
    have hnacc := ha.nacc
    unfold Machine.writeLoop
    by_cases h0 : n = 0
    · subst h0
      exact ⟨t, bs, if_pos rfl, h, ha, (List.append_nil _).symm⟩
    · rw [if_neg h0]
      dsimp only
      generalize htake : min n (8 - t.cmp.nacc) = take
      have hacc := bitsOfNat_addToAcc (take := take) v (by omega) ha.acc
      rw [← Nat.add_sub_cancel' (show take ≤ n by omega), bitsOfNat_add, Nat.add_sub_cancel' (show take ≤ n by omega),
        ← List.append_assoc]
      by_cases h8 : (Machine.addToAcc take v t).cmp.nacc = 8
      · rw [if_pos h8]
        rw [addToAcc_cmp_nacc] at h8
        obtain ⟨u, he, hu, -, -⟩ := (h.addToAcc take v).storeByte (Machine.addToAcc take v t).cmp.acc
        rw [he, Res.bind_ok]
        obtain ⟨w, cs, hw, hcs, hwa, hbits⟩ := ih (n := n - take) (v := v / 2 ^ take) (by omega) hu.clearAcc (accOk_clearAcc u)
        refine ⟨w, cs, hw, hcs, hwa, hbits.trans (congrArg (· ++ _) ?_)⟩
        rw [h8] at hacc
        rw [State.bitsAfter, State.bitsAfter, clearAcc_cmp_nacc, bitsOfNat, List.append_nil, bitsOfBytes_append, bitsOfBytes,
          bitsOfBytes, List.append_nil, hacc, List.append_assoc]
      · rw [if_neg h8]
        rw [addToAcc_cmp_nacc] at h8
        have ha' : AccOk (Machine.addToAcc take v t) :=
          ⟨by rw [addToAcc_cmp_nacc]; omega, addToAcc_acc_lt take v ha.acc⟩
        obtain ⟨w, cs, hw, hcs, hwa, hbits⟩ := ih (n := n - take) (v := v / 2 ^ take) (by omega) (h.addToAcc take v) ha'
        refine ⟨w, cs, hw, hcs, hwa, hbits.trans (congrArg (· ++ _) ?_)⟩
        rw [State.bitsAfter, State.bitsAfter, addToAcc_cmp_nacc, hacc, List.append_assoc]

/-- `t` is `s` after bits were written: `bits` are all bits there are then, or would be had no push failed. -/
structure Wrote (bits : List Bool) (s t : State) : Prop where
  acc    : AccOk t
  stored : ∃ bs, Stored bs s t ∧ 8 * bs.length ≤ bits.length ∧ (t.tc.stop = false → bits = t.bitsAfter bs)

theorem Wrote.refl {T : Config.CodeTables} (h : WriterOk T s) (hout : s.hostOut.wf = true) (hs : s.tc.stop = false) :
    Wrote s.packedBits s s where
  acc := ⟨h.nacc, h.acc⟩
  stored := ⟨_, .refl hout h.outb h.outPos hs, Nat.le.intro (length_bitsAfter _ s).symm, fun _ => rfl⟩

/-- WRITE_BITS appends the low bits of its value; once `STOP` is set it does nothing (R143, R145). -/
theorem Wrote.writeBits (h : Wrote bits s t) {n : Nat} (h1 : 1 ≤ n) (h16 : n ≤ 16) (v : Nat) :
    ∃ u, writeBits n v t = .ok () u ∧ Wrote (bits ++ bitsOfNat n v) s u := by
  obtain ⟨bs, hst, hlen, hbits⟩ := h.stored
  cases hs : t.tc.stop with
  | true =>
    refine ⟨t, writeBits_stopped hs n v, h.acc, bs, hst, ?_, fun hr => absurd (hs.symm.trans hr) (by decide)⟩
    rw [List.length_append]
    omega
  | false =>
    obtain ⟨u, cs, hu, hcs, hua, hcb⟩ := hst.writeLoop n (v := lowbits v n) (Nat.le_refl n) h.acc
    have hlow : bitsOfNat n (lowbits v n) = bitsOfNat n v := bitsOfNat_mod n v
    rw [← hbits hs, hlow] at hcb
    refine ⟨u, (writeBits_running hs h1 h16 v).trans hu, hua, cs, hcs, ?_, fun _ => hcb.symm⟩
    rw [← hcb, length_bitsAfter]
    omega

/-! ### What is left between operations -/

theorem Wrote.frame (h : Wrote bits s t) : SameButWriter s t := by
  obtain ⟨bs, hst, -⟩ := h.stored
  exact hst.frame

theorem Wrote.hostOut (h : Wrote bits s t) : t.hostOut.wf = true := by
  obtain ⟨bs, hst, -⟩ := h.stored
  exact hst.hostOut

theorem SameButWriter.outLimit (h : SameButWriter s t) : t.tc.outLimit = s.tc.outLimit := congrArg (·.tc.outLimit) h

/-- The writer stays well formed, whether or not a push failed. -/
theorem Wrote.writerOk {T : Config.CodeTables} (h : Wrote bits s t) (hw : WriterOk T s) : WriterOk T t := by
  obtain ⟨bs, hst, -⟩ := h.stored
  exact {
    nacc := h.acc.nacc
    acc := h.acc.acc
    outPos := hst.outPos
    outb := hst.outb
    cwv := (congrArg (·.cmp.cwv) hst.frame).trans hw.cwv
    cwb := (congrArg (·.cmp.cwb) hst.frame).trans hw.cwb }

theorem Wrote.packedBits (h : Wrote bits s t) (hs : t.tc.stop = false) : t.packedBits = bits := by
  obtain ⟨bs, hst, -, hbits⟩ := h.stored
  rw [hbits hs, State.bitsAfter, ← hst.bytes hs]
  rfl

/-- The pushes are of 2048 bytes each; without one the output is as it was. -/
theorem Wrote.pushed (h : Wrote bits s t) : ∃ k, t.tc.outCur = s.tc.outCur + 2048 * k ∧
    t.xfers = List.replicate k (.push 2048) ++ s.xfers ∧ (k = 0 → t.hostOut = s.hostOut) := by
  obtain ⟨bs, hst, -⟩ := h.stored
  exact hst.pushed

/-- Where a push failed, the whole bytes there would be do not fit. -/
theorem Wrote.full (h : Wrote bits s t) (hs : t.tc.stop = true) :
    s.tc.outLimit < t.tc.outCur + 2048 ∧ 8 * (t.tc.outCur + 2048) ≤ bits.length := by
  obtain ⟨bs, hst, hlen, -⟩ := h.stored
  obtain ⟨-, hlim, hfull⟩ := hst.full hs
  rw [hst.frame.outLimit] at hlim
  exact ⟨hlim, (Nat.mul_le_mul_left 8 hfull).trans hlen⟩

theorem length_packedBits (s : State) : s.packedBits.length = 8 * (s.tc.outCur + s.cmp.outPos) + s.cmp.nacc := by
  rw [State.packedBits, List.length_append, length_bitsOfBytes, length_bitsOfNat, length_packedBytes]

/-- Settles O15: at most one of the two bytes 16 bits can fill is the 2048th. -/
theorem writeBitsAppendsTheLowBits : Obligations.WriteBitsAppendsTheLowBits := by
  intro T n v s h1 h16 hw hout hs
  obtain ⟨t, he, ht⟩ := (Wrote.refl hw hout hs).writeBits h1 h16 v
  obtain ⟨k, hcur, hx, hk⟩ := ht.pushed
  have hpos := hw.outPos
  have hnacc := hw.nacc
  have hlen : (s.packedBits ++ bitsOfNat n v).length = 8 * (s.tc.outCur + s.cmp.outPos) + s.cmp.nacc + n := by
    rw [List.length_append, length_packedBits, length_bitsOfNat]
  refine ⟨t, he, ht.frame, ht.writerOk hw, ht.hostOut, ht.packedBits, ?_, fun hst => ?_⟩
  · have hk1 : k ≤ 1 := by
      cases hst : t.tc.stop with
      | true =>
        have := (ht.full hst).2
        omega
      | false =>
        rw [← ht.packedBits hst, length_packedBits] at hlen
        omega
    obtain rfl | rfl : k = 0 ∨ k = 1 := by omega
    · exact .inl ⟨hcur, hx⟩
    · exact .inr ⟨hcur, hx⟩
  · obtain ⟨hlim, hfull⟩ := ht.full hst
    obtain rfl : k = 0 := by omega
    exact ⟨hk rfl, hcur, by rwa [hcur] at hlim⟩

/-! ### FINISH (R144) -/

/-- The first half of FINISH makes whole bytes of the bits written, the last one filled up with zeros. -/
theorem Wrote.finishByte (h : Wrote bits s t) (hs : t.tc.stop = false) :
    ∃ u, finishByte t = .ok () u ∧ Stored (packAll bits) s u ∧ u.cmp.acc = 0 ∧ u.cmp.nacc = 0 := by
  obtain ⟨bs, hst, -, hbits⟩ := h.stored
  have hnacc := h.acc.nacc
  have hacc := h.acc.acc
  rw [hbits hs, State.bitsAfter, packAll_bitsOfBytes]
  unfold Machine.finishByte
  by_cases h0 : t.cmp.nacc = 0
  · rw [if_pos h0]
    rw [h0] at hacc ⊢
    refine ⟨t, rfl, by rwa [bitsOfNat, packAll_nil, List.append_nil], ?_, h0⟩
    exact BitVec.eq_of_toNat_eq (Nat.lt_one_iff.1 hacc)
  · rw [if_neg h0, packAll_bitsOfNat (by omega) (by omega) hacc]
    obtain ⟨u, he, hu, -, -⟩ := hst.storeByte t.cmp.acc
    rw [he]
    exact ⟨_, rfl, hu.clearAcc, rfl, rfl⟩

/-- Settles O16: the last byte is padded; then either that byte was the 2048th and has been pushed with the others, or the rest is. -/
theorem finishPadsAndPushesTheRest : Obligations.FinishPadsAndPushesTheRest := by
  intro T s hw hout hs
  dsimp only
  obtain ⟨u, he, hu, hacc, hnacc⟩ := (Wrote.refl hw hout hs).finishByte hs
  obtain ⟨k, hcur, hx, hk⟩ := hu.pushed
  have hpos := hw.outPos
  have hn := hw.nacc
  have hlen : (packAll s.packedBits).length ≤ s.tc.outCur + 2048 := by
    rw [length_packAll, length_packedBits]
    omega
  have hlim := hu.frame.outLimit
  unfold finish
  rw [if_neg (by rw [hs]; decide), he, Res.bind_ok]
  unfold finishPush
  cases hst : u.tc.stop with
  | true =>
    obtain ⟨h0, hover, hfull⟩ := hu.full hst
    obtain rfl : k = 0 := by omega
    exact ⟨u, if_pos (.inl rfl), hu.frame, hacc, hnacc, h0, fun hr => absurd (hst.symm.trans hr) (by decide),
      fun _ => ⟨hk rfl, hcur, hx, by omega⟩⟩
  | false =>
    have hb := hu.bytes hst
    have hbl := congrArg List.length hb
    rw [length_packedBytes] at hbl
    by_cases h0 : u.cmp.outPos = 0
    · rw [if_pos (.inr h0)]
      rw [State.packedBytes, h0, loadBytes, List.append_nil] at hb
      refine ⟨u, rfl, hu.frame, hacc, hnacc, h0, fun _ => ⟨hb, by omega, ?_⟩, fun hr => absurd (hst.symm.trans hr) (by decide)⟩
      obtain rfl | rfl : k = 0 ∨ k = 1 := by omega
      · rw [if_pos (by omega), hx]
        rfl
      · rw [show (packAll s.packedBits).length - s.tc.outCur = 2048 by omega, hx]
        rfl
    · rw [if_neg (by simp [h0])]
      obtain rfl : k = 0 := by omega
      rcases push_cases u.cmp.outb Config.outbSize .outbRange 0 u.cmp.outPos u with
        ⟨hs', -⟩ | ⟨-, hbig, -⟩ | ⟨-, -, hover, hp⟩ | ⟨-, -, hfit, hp⟩
      · exact absurd (hst.symm.trans hs') (by decide)
      · have := hu.outPos
        have : Config.outbSize = 2048 := rfl
        omega
      · rw [hp]
        refine ⟨_, rfl, hu.frame.trans rfl, hacc, hnacc, rfl, fun hr => ?_, fun _ => ⟨hk rfl, hcur, hx, ?_⟩⟩
        · cases hr
        · omega
      · rw [hp]
        refine ⟨_, rfl, hu.frame.trans rfl, hacc, hnacc, rfl, fun _ => ⟨?_, by omega, ?_⟩,
          fun hr => absurd (hst.symm.trans hr) (by decide)⟩
        · exact (loadBytes_push hu.hostOut 0 u.tc.outCur u.cmp.outPos).trans hb
        · rw [if_neg (by omega), show (packAll s.packedBits).length - s.tc.outCur = u.cmp.outPos by omega]
          exact congrArg _ hx

end Sys2Proof.Machine
end

section
/-! SUPPORT. The codeword table against the encoder (R107, R173), and what emitting a token or END writes (R175 to R177). -/

namespace Sys2Proof.Machine

variable {T : Config.CodeTables} {s t : State} {bits : List Bool}

/-! ### Well-formed code tables (R170, R172) -/

/-- What holds of every pair of cells of two tables of one length, and of `0, 0`, holds at every index. -/
theorem getD_of_forall_zip {l l' : List Nat} {p : Nat → Nat → Prop} (hl : l.length = l'.length) (h0 : p 0 0)
    (h : ∀ x ∈ l.zip l', p x.1 x.2) (i : Nat) : p (l.getD i 0) (l'.getD i 0) := by
  by_cases hi : i < l.length
  · have hi' : i < l'.length := hl ▸ hi
    have hz : i < (l.zip l').length := by rw [List.length_zip]; omega
    have := h _ (List.getElem_mem hz)
    rw [List.getElem_zip] at this
    simpa [hi, hi'] using this
  · rw [List.getD_eq_default _ _ (Nat.le_of_not_lt hi), List.getD_eq_default _ _ (hl ▸ Nat.le_of_not_lt hi)]
    exact h0

/-- The conditions of R172 the encoder rests on. -/
structure EncoderTables (T : Config.CodeTables) : Prop where
  lenCode  : ∀ i, lenCode T i < 2 ^ lenBits T i
  lenWidth : ∀ i, 1 + lenBits T i + lenExtra T i ≤ 16
  distBits : ∀ c < 64, 1 ≤ distBits T c ∧ distBits T c ≤ 8
  tiles    : T.lenBase.length = 16 ∧ T.lenExtra.length = 16 ∧ Config.tiles T.lenBase T.lenExtra 0 = true

theorem encoderTables_of_wf (h : T.wf = true) : EncoderTables T := by
  simp only [Config.CodeTables.wf, Bool.and_eq_true, beq_iff_eq, List.all_eq_true, decide_eq_true_eq, and_assoc] at h
  obtain ⟨hb, hc, he, hbase, hdb, -, -, hdb8, -, hcode, -, -, -, htiles, hwidth⟩ := h
  refine ⟨getD_of_forall_zip (p := fun n c => c < 2 ^ n) (hb.trans hc.symm) (by decide) hcode,
    getD_of_forall_zip (p := fun n e => 1 + n + e ≤ 16) (hb.trans he.symm) (by decide) hwidth, fun c hc => ?_, hbase, he, htiles⟩
  have hlt : c < T.distBits.length := hdb ▸ hc
  have := hdb8 _ (List.getElem_mem hlt)
  simpa [distBits, hlt] using this

theorem lt_of_tiles {b : Nat} {bs es : List Nat} {a : Nat} : Config.tiles (b :: bs) es a = true → b = a ∧ a < 518 := by
  induction bs generalizing b es a with
  | nil =>
    intro h
    match es with
    | [] => cases h
    | e :: [] =>
      simp [Config.tiles] at h
      have := Nat.two_pow_pos e
      omega
    | _ :: _ :: _ => simp [Config.tiles] at h
  | cons c cs ih =>
    intro h
    match es with
    | [] => cases h
    | e :: es =>
      rw [Config.tiles, Bool.and_eq_true] at h
      obtain ⟨-, hlt⟩ := ih h.2
      have := Nat.two_pow_pos e
      exact ⟨by simpa using h.1, by omega⟩

/-- The classes tile the length symbols, so the last holds symbol 517, which is END (R106, R108, R172 W4). -/
theorem symClass_end {bs es : List Nat} {a : Nat} (b : Nat) (i : Nat) (h : Config.tiles (b :: bs) es a = true) :
    symClass (b :: bs) es 517 i = i + bs.length := by
  induction bs generalizing b es a i with
  | nil =>
    match es with
    | [] => cases h
    | e :: [] =>
      simp [Config.tiles] at h
      have := Nat.two_pow_pos e
      rw [symClass, if_pos (by omega)]
      rfl
    | _ :: _ :: _ => simp [Config.tiles] at h
  | cons c cs ih =>
    match es with
    | [] => cases h
    | e :: es =>
      rw [Config.tiles, Bool.and_eq_true] at h
      have hb : b = a := by simpa using h.1
      obtain ⟨hc, hlt⟩ := lt_of_tiles h.2
      rw [symClass, if_neg (by omega), ih c (i + 1) h.2, List.length_cons]
      omega

theorem EncoderTables.lenClassOfSym_end (h : EncoderTables T) : lenClassOfSym T 517 = 15 := by
  obtain ⟨hlen, -, htiles⟩ := h.tiles
  unfold lenClassOfSym
  cases hb : T.lenBase with
  | nil => rw [hb] at hlen; cases hlen
  | cons b bs =>
    rw [hb] at hlen htiles
    rw [symClass_end b 0 htiles]
    exact (Nat.zero_add _).trans (Nat.succ.inj hlen)

/-! ### The codeword table (R107, R173) -/

theorem getD_builtCwv {y : Nat} (h : y < 774) : (builtCwv T).getD y 0 = cwValue T y := by
  unfold builtCwv
  rw [getD_tableOf _ _ _ _ h, Nat.zero_add]

theorem getD_builtCwb {y : Nat} (h : y < 774) : (builtCwb T).getD y 0 = cwWidth T y := by
  unfold builtCwb
  rw [getD_tableOf _ _ _ _ h, Nat.zero_add]

/-- The codeword of a length symbol: selector 1, the class code, the extra bits. -/
theorem bitsOfNat_lenCw (h : EncoderTables T) (sym : Nat) : bitsOfNat (lenCwWidth T sym) (lenCwValue T sym) =
    encodeLength T (lenClassOfSym T sym) (sym - lenBase T (lenClassOfSym T sym)) := by
  unfold lenCwWidth lenCwValue encodeLength
  dsimp only
  generalize lenClassOfSym T sym = i
  have hc := h.lenCode i
  have hv : 1 + lenCode T i * 2 + (sym - lenBase T i) * 2 ^ (1 + lenBits T i) =
      2 ^ 1 * (2 ^ lenBits T i * (sym - lenBase T i) + lenCode T i) + 1 := by
    rw [pow_add]
    ring
  rw [hv, Nat.add_assoc, ← bitsOfNat_append (by decide), ← bitsOfNat_append hc]
  rfl

theorem bitsOfNat_litCw (b : Byte) : bitsOfNat 9 (b.toNat * 2) = encode T (.lit b) := by
  rw [bitsOfNat, Nat.mul_div_cancel _ (by decide), Nat.mul_mod_left]
  rfl

/-! ### The write side (R175 to R177) -/

theorem Wrote.hdr (h : Wrote bits s t) : t.hdr = s.hdr := congrArg (·.hdr) h.frame

section Emit

variable (hT : EncoderTables T) (hw : WriterOk T s)
include hT hw

omit hT in
theorem Wrote.emitLit (h : Wrote bits s t) (b : Byte) :
    ∃ u, emitLit b t = .ok () u ∧ Wrote (bits ++ encode T (.lit b)) s u := by
  have hb := b.isLt
  unfold Machine.emitLit
  rw [(h.writerOk hw).cwv, (h.writerOk hw).cwb, getD_builtCwv (by omega), getD_builtCwb (by omega), cwValue, cwWidth, if_pos hb,
    if_pos hb, ← bitsOfNat_litCw]
  exact h.writeBits (by decide) (by decide) _

/-- The codeword of a length symbol is written. -/
theorem Wrote.lengthCw (h : Wrote bits s t) {sym : Nat} (hs : sym < 518) :
    ∃ u, Machine.writeBits (t.cmp.cwb.getD (256 + sym) 0) (t.cmp.cwv.getD (256 + sym) 0) t = .ok () u ∧
      Wrote (bits ++ encodeLength T (lenClassOfSym T sym) (sym - lenBase T (lenClassOfSym T sym))) s u := by
  have hy : ¬ 256 + sym < 256 := by omega
  rw [(h.writerOk hw).cwv, (h.writerOk hw).cwb, getD_builtCwv (by omega), getD_builtCwb (by omega), cwValue, cwWidth, if_neg hy,
    if_neg hy, Nat.add_sub_cancel_left, ← bitsOfNat_lenCw hT]
  have h1 : 1 ≤ lenCwWidth T sym := by
    unfold lenCwWidth
    dsimp only
    omega
  exact h.writeBits h1 (hT.lenWidth _) _

theorem Wrote.emitEnd (h : Wrote bits s t) : ∃ u, emitEnd t = .ok () u ∧ Wrote (bits ++ encode T .endOfStream) s u := by
  have := h.lengthCw hT hw (sym := 517) (by decide)
  rwa [hT.lenClassOfSym_end] at this

/-- A copy that has an encoding: the length codeword, the offset's class code, its low field. -/
theorem Wrote.emitCopy (h : Wrote bits s t) (hl : legalWsize s.hdr.wsize = true) {len off : Nat}
    (he : (Token.copy len off).encodable s.hdr.wsize = true) :
    ∃ u, emitCopy T len off t = .ok () u ∧ Wrote (bits ++ (Token.copy len off).bits T s.hdr.wsize) s u := by
  have henc : copyEncodable len off t = true := by
    rw [← he, copyEncodable, State.dsize, h.hdr]
    rfl
  simp only [Token.encodable, Bool.and_eq_true, decide_eq_true_eq] at he
  obtain ⟨⟨h2, h518⟩, hoff⟩ := he
  have h2 : 2 ≤ len := h2
  have h518 : len ≤ 518 := h518
  obtain ⟨hlw, hc⟩ : (1 ≤ lowWidth len s.hdr.wsize ∧ lowWidth len s.hdr.wsize ≤ 16) ∧
      off / 2 ^ lowWidth len s.hdr.wsize < 64 := by
    unfold lowWidth
    split_ifs at hoff ⊢
    · exact ⟨by decide, Nat.div_lt_of_lt_mul (of_decide_eq_true hoff)⟩
    · have hlt : off < 64 * 2 ^ s.hdr.wsize.toNat := of_decide_eq_true hoff
      refine ⟨?_, Nat.div_lt_of_lt_mul (by rwa [Nat.mul_comm])⟩
      rcases legalWsize_iff.1 hl with hw | hw | hw <;> rw [hw] <;> decide
  obtain ⟨hd1, hd8⟩ := hT.distBits _ hc
  have hcw := h.lengthCw hT hw (sym := len - 2) (by omega)
  rw [show 256 + (len - 2) = 254 + len by omega] at hcw
  obtain ⟨u, hu, hwu⟩ := hcw
  obtain ⟨v, hv, hwv⟩ := hwu.writeBits hd1 (hd8.trans (by decide)) (distCode T (off / 2 ^ lowWidth len s.hdr.wsize))
  obtain ⟨x, hx, hwx⟩ := hwv.writeBits hlw.1 hlw.2 (lowbits off (lowWidth len s.hdr.wsize))
  unfold Machine.emitCopy
  dsimp only
  rw [if_pos henc, hu, Res.bind_ok, h.hdr, hv, Res.bind_ok]
  refine ⟨x, hx, ?_⟩
  rwa [List.append_assoc, List.append_assoc] at hwx

/-- Emitting a token that has an encoding appends its bits (R105, R175, R176). -/
theorem Wrote.emitToken (h : Wrote bits s t) (hl : legalWsize s.hdr.wsize = true) {tok : Token}
    (he : tok.encodable s.hdr.wsize = true) :
    ∃ u, emitToken T tok t = .ok () u ∧ Wrote (bits ++ tok.bits T s.hdr.wsize) s u := by
  cases tok with
  | lit b => exact h.emitLit hw b
  | copy len off => exact h.emitCopy hT hw hl he

end Emit

end Sys2Proof.Machine
end

section
/-! SUPPORT. INDEX_BUILD sorts the positions into their buckets (R202, R203): the counts, their prefix sums, and the placing of the
positions, last one first. -/

namespace Sys2Proof.Machine

/-- Of the `n` positions from `lo` on, those of bucket `h`, ascending. -/
def bucketOf (work : Memory) (lo n h : Nat) : List Nat := (List.range' lo n).filter fun q => hashAt work q == h

theorem hashAt_lt (work : Memory) (q : Nat) : hashAt work q < 2304 := by
  have h0 := (work.read q).isLt
  have h1 := (work.read (q + 1)).isLt
  unfold hashAt hash
  omega

theorem bucketOf_succ (work : Memory) (lo n h : Nat) :
    bucketOf work lo (n + 1) h = bucketOf work lo n h ++ if hashAt work (lo + n) = h then [lo + n] else [] := by
  rw [bucketOf, List.range'_1_concat, List.filter_append, bucketOf]
  congr 1
  by_cases hh : hashAt work (lo + n) = h <;> simp [hh]

theorem getD_set (l : List Nat) {i j : Nat} (v : Nat) (hi : i < l.length) :
    (l.set i v).getD j 0 = if j = i then v else l.getD j 0 := by
  rw [List.getD_eq_getElem?_getD, List.getElem?_set, List.getD_eq_getElem?_getD]
  by_cases hj : j = i
  · subst hj
    rw [if_pos rfl, if_pos rfl, if_pos hi]
    rfl
  · rw [if_neg hj, if_neg (Ne.symm hj)]

/-! ### The counts and their sums -/

theorem getD_countPass (work : Memory) {h : Nat} (n : Nat) : ∀ q htab, List.length htab = 2304 →
    (countPass work q htab n).getD h 0 = htab.getD h 0 + (bucketOf work q n h).length := by
  induction n with
  | zero => intro q htab _; rfl
  | succ n ih =>
    intro q htab hl
    have hq := hashAt_lt work q
    rw [countPass, ih _ _ (by rw [List.length_set, hl]), getD_set _ _ (hl ▸ hq), bucketOf, bucketOf, List.range'_succ,
      List.filter_cons]
    by_cases hh : h = hashAt work q
    · subst hh
      rw [if_pos rfl, if_pos (beq_self_eq_true _), List.length_cons]
      omega
    · rw [if_neg hh, if_neg (by simpa using Ne.symm hh)]

theorem sum_set_succ (l : List Nat) : ∀ i < l.length, (l.set i (l.getD i 0 + 1)).sum = l.sum + 1 := by
  induction l with
  | nil => intro i hi; exact absurd hi (Nat.not_lt_zero i)
  | cons x xs ih =>
    intro i hi
    cases i with
    | zero => simp; omega
    | succ i =>
      have := ih i (Nat.lt_of_succ_lt_succ hi)
      rw [List.set_cons_succ, List.getD_cons_succ, List.sum_cons, this, List.sum_cons, Nat.add_assoc]

theorem sum_countPass (work : Memory) (n : Nat) : ∀ q htab, List.length htab = 2304 →
    (countPass work q htab n).sum = htab.sum + n := by
  induction n with
  | zero => intro q htab _; rfl
  | succ n ih =>
    intro q htab hl
    rw [countPass, ih _ _ (by rw [List.length_set, hl]), sum_set_succ _ _ (hl ▸ hashAt_lt work q)]
    omega

theorem getD_prefixSums (l : List Nat) : ∀ t h, h < l.length → (prefixSums t l).getD h 0 = t + (l.take (h + 1)).sum := by
  induction l with
  | nil => intro t h hh; exact absurd hh (Nat.not_lt_zero h)
  | cons c cs ih =>
    intro t h hh
    cases h with
    | zero => simp [prefixSums]
    | succ h =>
      rw [prefixSums, List.getD_cons_succ, ih _ _ (Nat.lt_of_succ_lt_succ hh), List.take_succ_cons, List.sum_cons, Nat.add_assoc]

theorem sum_take_succ_getD (l : List Nat) {h : Nat} (hh : h < l.length) : (l.take (h + 1)).sum = (l.take h).sum + l.getD h 0 := by
  rw [List.take_succ_eq_append_getElem hh, List.sum_append_nat, List.getD_eq_getElem _ _ hh]
  simp

theorem sum_take_le (l : List Nat) {i j : Nat} (h : i ≤ j) : (l.take i).sum ≤ (l.take j).sum := by
  rw [show l.take j = l.take i ++ (l.drop i).take (j - i) by rw [← List.take_add, Nat.add_sub_cancel' h], List.sum_append_nat]
  exact Nat.le_add_right _ _

/-! ### The placing -/

/-- The buckets' slots follow one another: bucket `h` of the `n` positions has those from `first h` on, and `htab` their ends. -/
structure Slots (work : Memory) (lo n : Nat) (first : Nat → Nat) (htab idx : Table) : Prop where
  length : List.length htab = 2304
  ends   : ∀ h < 2304, htab.getD h 0 = first h + (bucketOf work lo n h).length
  order  : ∀ h h', h < h' → h' < 2304 → first h + (bucketOf work lo n h).length ≤ first h'
  room   : ∀ h < 2304, first h + (bucketOf work lo n h).length ≤ idx.length

/-- The last position goes into the last slot of its bucket, and the others remain to be placed. -/
theorem Slots.place {work : Memory} {lo n : Nat} {first : Nat → Nat} {htab idx : Table} (s : Slots work lo (n + 1) first htab idx) :
    htab.getD (hashAt work (lo + n)) 0 - 1 = first (hashAt work (lo + n)) + (bucketOf work lo n (hashAt work (lo + n))).length ∧
      Slots work lo n first (htab.set (hashAt work (lo + n)) (htab.getD (hashAt work (lo + n)) 0 - 1))
        (idx.set (htab.getD (hashAt work (lo + n)) 0 - 1) (lo + n)) := by
  have hq := hashAt_lt work (lo + n)
  have hle : ∀ h, (bucketOf work lo n h).length ≤ (bucketOf work lo (n + 1) h).length := fun h => by
    rw [bucketOf_succ, List.length_append]
    exact Nat.le_add_right _ _
  have hslot : htab.getD (hashAt work (lo + n)) 0 - 1 =
      first (hashAt work (lo + n)) + (bucketOf work lo n (hashAt work (lo + n))).length := by
    rw [s.ends _ hq, bucketOf_succ, if_pos rfl, List.length_append]
    rfl
  refine ⟨hslot, by rw [List.length_set, s.length], fun h hh => ?_, fun h h' hlt hh => ?_, fun h hh => ?_⟩
  · rw [getD_set _ _ (s.length ▸ hq)]
    split_ifs with he
    · rw [hslot, he]
    · rw [s.ends h hh, bucketOf_succ, if_neg (Ne.symm he), List.append_nil]
  · exact (Nat.add_le_add_left (hle h) _).trans (s.order h h' hlt hh)
  · rw [List.length_set]
    exact (Nat.add_le_add_left (hle h) _).trans (s.room h hh)

/-- Pass two leaves in `HTAB` where each bucket begins, each position in its slot, and every other slot as it was. -/
theorem placePass_spec (work : Memory) (lo : Nat) (first : Nat → Nat) (n : Nat) : ∀ htab idx, Slots work lo n first htab idx →
    (∀ h < 2304, (placePass work lo htab idx n).1.getD h 0 = first h) ∧
    (∀ h < 2304, ∀ k < (bucketOf work lo n h).length,
      (placePass work lo htab idx n).2[first h + k]? = (bucketOf work lo n h)[k]?) ∧
    (∀ j, (∀ h < 2304, j < first h ∨ first h + (bucketOf work lo n h).length ≤ j) →
      (placePass work lo htab idx n).2[j]? = idx[j]?) := by
  induction n with
  | zero =>
    intro htab idx s
    exact ⟨fun h hh => s.ends h hh, fun h _ k hk => absurd hk (Nat.not_lt_zero k), fun j _ => rfl⟩
  | succ n ih =>
    intro htab idx s
    obtain ⟨hslot, hs⟩ := s.place
    obtain ⟨h1, h2, h3⟩ := ih _ _ hs
    have hq := hashAt_lt work (lo + n)
    have hroom := s.room _ hq
    rw [placePass]
    generalize hh0 : hashAt work (lo + n) = h0 at hslot h1 h2 h3 hq hroom ⊢
    generalize htab.getD h0 0 - 1 = slot at hslot h1 h2 h3 ⊢
    have hsucc : bucketOf work lo (n + 1) h0 = bucketOf work lo n h0 ++ [lo + n] := by rw [bucketOf_succ, if_pos hh0]
    have hother : ∀ h, h ≠ h0 → bucketOf work lo (n + 1) h = bucketOf work lo n h := fun h hne => by
      rw [bucketOf_succ, if_neg (by rw [hh0]; exact Ne.symm hne), List.append_nil]
    have hlen : (bucketOf work lo (n + 1) h0).length = (bucketOf work lo n h0).length + 1 := by
      rw [hsucc, List.length_append]
      rfl
    refine ⟨h1, fun h hh k hk => ?_, fun j hj => ?_⟩
    · by_cases hne : h = h0
      · subst hne
        rw [hsucc]
        by_cases hk' : k < (bucketOf work lo n h).length
        · rw [List.getElem?_append_left hk']
          exact h2 h hh k hk'
        · obtain rfl : k = (bucketOf work lo n h).length := by omega
          rw [List.getElem?_concat_length, ← hslot, h3 slot fun h' hh' => ?_]
          · rw [List.getElem?_set_self (by omega)]
          · rcases Nat.lt_trichotomy h' h with hlt | rfl | hlt
            · have := s.order h' h hlt hh
              rw [hother h' (by omega)] at this
              omega
            · omega
            · have := s.order h h' hlt hh'
              omega
      · rw [hother h hne] at hk ⊢
        exact h2 h hh k hk
    · have hslotj : slot ≠ j := by
        have := hj h0 hq
        omega
      rw [h3 j fun h hh => ?_, List.getElem?_set_ne hslotj]
      by_cases hne : h = h0
      · subst hne
        have := hj h hh
        omega
      · have := hj h hh
        rwa [hother h hne] at this

/-! ### INDEX_BUILD -/

/-- The counts of pass one, by bucket. -/
theorem getD_counts (work : Memory) (lo n h : Nat) :
    (countPass work lo (Table.zeros Config.nBucket) n).getD h 0 = (bucketOf work lo n h).length := by
  rw [getD_countPass work n lo (Table.zeros Config.nBucket) List.length_replicate, Table.zeros]
  by_cases hh : h < Config.nBucket
  · rw [List.getD_replicate _ hh, Nat.zero_add]
  · rw [List.getD_eq_default _ _ (by rw [List.length_replicate]; exact Nat.le_of_not_lt hh), Nat.zero_add]

theorem sum_counts (work : Memory) (lo n : Nat) : (countPass work lo (Table.zeros Config.nBucket) n).sum = n := by
  rw [sum_countPass work n lo (Table.zeros Config.nBucket) List.length_replicate, Table.zeros, List.sum_replicate, smul_zero,
    Nat.zero_add]

theorem length_counts (work : Memory) (lo n : Nat) : (countPass work lo (Table.zeros Config.nBucket) n).length = 2304 := by
  rw [length_countPass, Table.zeros, List.length_replicate]

/-- The first slot of bucket `h`: the positions of the buckets before it. -/
def firstSlot (work : Memory) (lo n h : Nat) : Nat := ((countPass work lo (Table.zeros Config.nBucket) n).take h).sum

theorem firstSlot_succ (work : Memory) (lo n : Nat) {h : Nat} (hh : h < 2304) :
    firstSlot work lo n (h + 1) = firstSlot work lo n h + (bucketOf work lo n h).length := by
  rw [firstSlot, sum_take_succ_getD _ (by rwa [length_counts]), getD_counts, firstSlot]

theorem firstSlot_last (work : Memory) (lo n : Nat) : firstSlot work lo n 2304 = n := by
  rw [firstSlot, List.take_of_length_le (length_counts work lo n).le, sum_counts]

theorem slots_prefixSums (work : Memory) (lo n : Nat) {idx : Table} (hn : n ≤ idx.length) :
    Slots work lo n (firstSlot work lo n) (prefixSums 0 (countPass work lo (Table.zeros Config.nBucket) n)) idx where
  length := by rw [length_prefixSums, length_counts]
  ends h hh := by rw [getD_prefixSums _ _ _ (by rwa [length_counts]), Nat.zero_add, ← firstSlot_succ work lo n hh, firstSlot]
  order h h' hlt hh := by
    rw [← firstSlot_succ work lo n (hlt.trans hh)]
    exact sum_take_le _ hlt
  room h hh := by
    rw [← firstSlot_succ work lo n hh]
    refine (sum_take_le _ (show h + 1 ≤ 2304 from hh)).trans ?_
    rwa [← firstSlot, firstSlot_last]

/-- INDEX_BUILD inside its bounds: the index holds the positions of `[IDX_LO, LOAD_END - 1)`, each bucket's ascending. -/
theorem indexBuild_eq_ok {s : State} (hi : s.cmp.idx.length = 8707) (hload : s.cmp.loadEnd ≤ s.workSize) (hn : s.idxCount ≤ 8707) :
    ∃ htab idx, indexBuild s = .ok () { s with cmp := { s.cmp with htab := htab, idx := idx, nidx := s.idxCount } } ∧
      htab.length = 2304 ∧ idx.length = 8707 ∧ (∀ x ∈ htab, x ≤ s.idxCount) ∧
      (∀ h < 2304, htab.getD h 0 = firstSlot s.cmp.work s.idxLo s.idxCount h) ∧
      ∀ h < 2304, (idx.drop (htab.getD h 0)).take (bucketOf s.cmp.work s.idxLo s.idxCount h).length =
        bucketOf s.cmp.work s.idxLo s.idxCount h := by
  have hslots := slots_prefixSums s.cmp.work s.idxLo s.idxCount (idx := s.cmp.idx) (by rwa [hi])
  obtain ⟨h1, h2, -⟩ := placePass_spec _ _ _ _ _ _ hslots
  obtain ⟨hlen, hilen⟩ := length_placePass s.cmp.work s.idxLo s.idxCount
    (prefixSums 0 (countPass s.cmp.work s.idxLo (Table.zeros Config.nBucket) s.idxCount)) s.cmp.idx
  have hsum := sum_counts s.cmp.work s.idxLo s.idxCount
  refine ⟨_, _, ?_, hlen.trans hslots.length, hilen.trans hi, ?_, h1, fun h hh => ?_⟩
  · unfold indexBuild
    rw [if_neg (Nat.not_lt.2 hload), if_neg (Nat.not_lt.2 hn)]
    dsimp only
    rw [hsum]
  · refine placePass_le _ _ _ _ _ fun x hx => ?_
    have := prefixSums_le _ 0 x hx
    rwa [hsum, Nat.zero_add] at this
  · rw [h1 h hh]
    refine List.ext_getElem? fun k => ?_
    by_cases hk : k < (bucketOf s.cmp.work s.idxLo s.idxCount h).length
    · rw [List.getElem?_take_of_lt hk, List.getElem?_drop, h2 h hh k hk]
    · rw [List.getElem?_eq_none (by rw [List.length_take]; omega), List.getElem?_eq_none (Nat.le_of_not_lt hk)]

/-- Each bucket of a state whose `HTAB` and `NIDX` give the slots of an index. -/
theorem bucket_of_slots {s : State} {work : Memory} {lo n : Nat} (hn : s.cmp.nidx = n)
    (hf : ∀ h < 2304, s.cmp.htab.getD h 0 = firstSlot work lo n h) {h : Nat} (hh : h < 2304) :
    s.bucket h = (s.cmp.idx.drop (s.cmp.htab.getD h 0)).take (bucketOf work lo n h).length := by
  have hend : s.bend h = firstSlot work lo n h + (bucketOf work lo n h).length := by
    rw [← firstSlot_succ work lo n hh, State.bend]
    by_cases hlast : h < Config.nBucket - 1
    · rw [if_pos hlast, hf _ (Nat.add_lt_of_lt_sub hlast)]
    · obtain rfl : h = 2303 := by
        have : ¬ h < 2303 := hlast
        omega
      rw [if_neg hlast, hn, firstSlot_last]
  rw [State.bucket, hend, hf h hh, Nat.add_sub_cancel_left]

end Sys2Proof.Machine
end

section
/-! SUPPORT. What each state of CMP answers under the invariant (R231 to R239): a next state in every case, and what that state holds of
the token chosen and the bits written. -/

namespace Sys2Proof.Machine

variable {P : Config.Params} {s t u : State}

/-! ### FIND_MATCH and CHOOSE (R205, R210, R213) -/

/-- No bucket reaches beyond `IDX`, so FIND_MATCH answers; a match of 2 bytes has an offset below 256. -/
theorem CmpBusy.findMatch (h : CmpBusy P s) (hs : s.cmp.cstate = .emit) (p : Nat) :
    ∃ m, Machine.findMatch p s = .ok m ∧ MatchWithin (s.maxLenAt p) s.dsize m ∧ (m.1 = 2 → m.2 < 256) := by
  have hd := (dsize_bounds h.cmp.wsize).1
  have hbend : ∀ b, s.bend b ≤ 8707 := fun b => by
    refine le_trans ?_ h.bounded.widths.nidx
    unfold State.bend
    split_ifs
    · exact getD_le_of_forall_le (h.cmp.index hs) _
    · exact Nat.le_refl _
  obtain ⟨m, hm, h2⟩ : ∃ m, Machine.findMatch p s = .ok m ∧ (m.1 = 2 → m.2 < 256) := by
    unfold Machine.findMatch
    dsimp only
    split_ifs with h1 h2
    · exact ⟨_, rfl, fun hc => by cases hc⟩
    · exact absurd h2 (Nat.not_lt.2 (hbend _))
    · refine ⟨_, rfl, fun hc => ?_⟩
      unfold lengthTwoRule at hc ⊢
      split_ifs at hc ⊢ with hr
      have : ¬ 256 ≤ _ := fun hoff => hr ⟨hc, hoff⟩
      exact Nat.lt_of_not_le this
  exact ⟨m, hm, findMatch_within (by omega) hm, h2⟩

/-- `t` is `s` but for the match registers. -/
def SameButMatch (s t : State) : Prop :=
  t = { s with cmp := { s.cmp with mLen := t.cmp.mLen, mOff := t.cmp.mOff, nLen := t.cmp.nLen, nOff := t.cmp.nOff } }

/-- In `C_EMIT` before `SCAN_END` CHOOSE decides on a token that has an encoding and covers a loaded byte or more. -/
theorem CmpBusy.choose_eq_ok (h : CmpBusy P s) (hs : s.cmp.cstate = .emit) (hcur : s.cmp.cur < s.cmp.scanEnd) :
    ∃ c t, Machine.choose P s = .ok c t ∧ SameButMatch s t ∧ 1 ≤ c.2 ∧ s.cmp.cur + c.2 ≤ s.cmp.loadEnd ∧
      c.1.encodable s.hdr.wsize = true := by
  obtain ⟨hl, hsc, hnl⟩ := h.cmp.loaded (by rw [hs]; decide)
  have hn := h.bounded.widths.nload
  have hbase : s.base = s.dsize + 516 := rfl
  have hwork : s.workSize = s.base + 4096 := rfl
  have hlt : s.cmp.cur < s.cmp.loadEnd := by
    split_ifs at hsc <;> omega
  obtain ⟨m, hm, ⟨hm1, hm2⟩, hm3⟩ := h.findMatch hs s.cmp.cur
  have hmax : m.1 ≤ 516 ∧ m.1 ≤ s.cmp.loadEnd - s.cmp.cur :=
    ⟨hm1.trans (Nat.min_le_left _ _), hm1.trans (Nat.min_le_right _ _)⟩
  unfold Machine.choose
  rw [if_neg (by omega), hm]
  show ∃ c t, (if 2 ≤ m.1 then _ else _) = _ ∧ _
  by_cases h2 : 2 ≤ m.1
  · obtain ⟨n, hn', -, -⟩ := h.findMatch hs (s.cmp.cur + 1)
    have hn' : Machine.findMatch ((Machine.setMatch m s).cmp.cur + 1) (Machine.setMatch m s) = .ok n := hn'
    rw [if_pos h2, hn']
    show ∃ c t, (if P.lazyDefer m.1 m.2 n.1 n.2 then _ else _) = _ ∧ _
    split_ifs
    · exact ⟨_, _, rfl, rfl, Nat.le_refl 1, hlt, rfl⟩
    · refine ⟨_, _, rfl, rfl, by show 1 ≤ m.1; omega, by show s.cmp.cur + m.1 ≤ s.cmp.loadEnd; omega, ?_⟩
      simp only [Token.encodable, Bool.and_eq_true, decide_eq_true_eq]
      refine ⟨⟨h2, hmax.1.trans (by decide)⟩, ?_⟩
      split_ifs with hlen
      · exact decide_eq_true (hm3 hlen)
      · exact decide_eq_true hm2
  · rw [if_neg h2]
    exact ⟨_, _, rfl, rfl, Nat.le_refl 1, hlt, rfl⟩

/-! ### EMIT_STEP (R235) -/

/-- `u` is `s` after EMIT_STEP emitted `c`, and before `STOP` is tested. -/
structure Emitted (c : Token × Nat) (s u : State) : Prop where
  frame  : u = { s with
    tc := { s.tc with outCur := u.tc.outCur, stop := u.tc.stop }
    cmp := { s.cmp with
      cur := s.cmp.cur + c.2
      mLen := u.cmp.mLen, mOff := u.cmp.mOff, nLen := u.cmp.nLen, nOff := u.cmp.nOff
      acc := u.cmp.acc, nacc := u.cmp.nacc, outPos := u.cmp.outPos, outb := u.cmp.outb }
    hostOut := u.hostOut
    xfers := u.xfers }
  covers : 1 ≤ c.2
  curHi  : s.cmp.cur + c.2 ≤ s.cmp.loadEnd

theorem CmpBusy.writerOk (h : CmpBusy P s) : WriterOk P.tables s := h.cmp.writer

/-- The writer as it stands when a state of CMP begins. -/
theorem CmpBusy.wrote (h : CmpBusy P s) : Wrote s.packedBits s s :=
  Wrote.refl h.cmp.writer h.bounded.memories.hostOut h.cmp.stop

theorem CmpBusy.emitStep_eq (h : CmpBusy P s) (hT : EncoderTables P.tables) (hs : s.cmp.cstate = .emit)
    (hcur : s.cmp.cur < s.cmp.scanEnd) :
    ∃ c u, Machine.emitStep P s = failIfStopped P u (fun v => .ok () v) ∧ Emitted c s u := by
  obtain ⟨c, t, hc, hframe, hcov, hhi, henc⟩ := h.choose_eq_ok hs hcur
  have hhdr : t.hdr = s.hdr := by rw [hframe]
  have ht : CmpBusy P t := by
    have := h.choose (E := fun _ => True) hs
    rw [hc] at this
    exact this.1
  obtain ⟨u, hu, hw⟩ := ht.wrote.emitToken hT ht.writerOk ht.cmp.wsize (tok := c.1) (by rwa [hhdr])
  refine ⟨c, u.advance c.2, ?_, ?_, hcov, hhi⟩
  · unfold Machine.emitStep
    rw [hc, Res.bind_ok, hu]
    rfl
  · have hwf := hw.frame
    unfold SameButWriter at hwf
    unfold SameButMatch at hframe
    rw [hframe] at hwf
    rw [hwf]
    rfl

/-- `C_EMIT`: a token, with which the command may fail; or the end of the round (R231, R235, R239). -/
theorem CmpBusy.emitState_cases (h : CmpBusy P s) (hT : EncoderTables P.tables) (hs : s.cmp.cstate = .emit) :
    (∃ c u, s.cmp.cur < s.cmp.scanEnd ∧ Emitted c s u ∧
      (u.tc.stop = false ∧ Machine.emitState P s = .ok () u ∨ u.tc.stop = true ∧ Machine.emitState P s = raise P .cmp .push u)) ∨
    (s.cmp.scanEnd ≤ s.cmp.cur ∧ Machine.emitState P s = .ok () (s.setCstate (if s.cmp.ended then .terminate else .shift))) := by
  have hstop := h.cmp.stop
  unfold Machine.emitState failIfStopped
  rw [if_neg (by rw [hstop]; decide)]
  dsimp only
  by_cases hcur : s.cmp.cur < s.cmp.scanEnd
  · obtain ⟨c, u, he, hu⟩ := h.emitStep_eq hT hs hcur
    rw [if_pos hcur, he]
    refine .inl ⟨c, u, hcur, hu, ?_⟩
    unfold failIfStopped
    cases hst : u.tc.stop with
    | false => exact .inl ⟨rfl, rfl⟩
    | true => exact .inr ⟨rfl, rfl⟩
  · exact .inr ⟨Nat.le_of_not_lt hcur, if_neg hcur⟩

/-! ### The other states -/

/-- `C_ANALYZE`: the index of the positions a search can use (R234). -/
theorem CmpBusy.analyze_eq_ok (h : CmpBusy P s) (hs : s.cmp.cstate = .analyze) :
    ∃ htab idx, Machine.analyze s = .ok () { s with cmp := { s.cmp with
        htab := htab, idx := idx, nidx := s.idxCount, cstate := .emit } } ∧
      (∀ b < 2304, htab.getD b 0 = firstSlot s.cmp.work s.idxLo s.idxCount b) ∧
      ∀ b < 2304, (idx.drop (htab.getD b 0)).take (bucketOf s.cmp.work s.idxLo s.idxCount b).length =
        bucketOf s.cmp.work s.idxLo s.idxCount b := by
  obtain ⟨hl, -, -⟩ := h.cmp.loaded (by rw [hs]; decide)
  have hn := h.bounded.widths.nload
  have hd := (dsize_bounds h.cmp.wsize).2
  have hbase : s.base = s.dsize + 516 := rfl
  have hload : s.cmp.loadEnd ≤ s.workSize := by
    show s.cmp.loadEnd ≤ s.base + 4096
    omega
  have hcount : s.idxCount ≤ 8707 := by
    unfold State.idxCount
    omega
  obtain ⟨htab, idx, he, -, -, -, hf, hb⟩ := indexBuild_eq_ok h.bounded.memories.idx hload hcount
  refine ⟨htab, idx, ?_, hf, hb⟩
  unfold Machine.analyze
  rw [he]
  rfl

/-- `C_SHIFT`: the cursor has scanned the chunk, so it stands past the shift amount (R237). -/
theorem CmpBusy.shift_cur (h : CmpBusy P s) (hs : s.cmp.cstate = .shift) : 4096 ≤ s.cmp.cur := by
  obtain ⟨-, hsc, hnl⟩ := h.cmp.loaded (by rw [hs]; decide)
  obtain ⟨hended, hscan⟩ := h.cmp.shift hs
  have := hnl hended
  omega

/-- `C_TERMINATE`: END and the rest of the output, with which the command ends or fails (R238, R239). -/
theorem CmpBusy.terminate_cases (h : CmpBusy P s) (hT : EncoderTables P.tables) : ∃ u, SameButWriter s u ∧
    (u.tc.stop = false ∧ Machine.terminate P s = .ok () (u.complete .cmp) ∨
      u.tc.stop = true ∧ Machine.terminate P s = raise P .cmp .push u) := by
  obtain ⟨t, ht, hw⟩ := h.wrote.emitEnd hT h.writerOk
  obtain ⟨u, hu, hframe⟩ : ∃ u, finish t = .ok () u ∧ SameButWriter t u := by
    cases hst : t.tc.stop with
    | true => exact ⟨t, finish_stopped hst, rfl⟩
    | false =>
      obtain ⟨u, hu, hframe, -⟩ := finishPadsAndPushesTheRest P.tables t (hw.writerOk h.writerOk) hw.hostOut hst
      exact ⟨u, hu, hframe⟩
  refine ⟨u, hw.frame.trans hframe, ?_⟩
  unfold Machine.terminate
  rw [ht, Res.bind_ok, hu, Res.bind_ok]
  unfold failIfStopped
  cases hst : u.tc.stop with
  | false => exact .inl ⟨rfl, rfl⟩
  | true => exact .inr ⟨rfl, rfl⟩

end Sys2Proof.Machine
end

section
/-! SUPPORT. What `WORK` and the index hold while CMP runs (R76, R82, R203, R204), state by state. -/

namespace Sys2Proof.Machine

variable {P : Config.Params} {E : State → Prop} {c : Token × Nat} {s t u : State}

/-- Before the first pull no cell of `WORK` is claimed. -/
theorem cmpContent_started (hs : t.cmp.cstate = .staging) (hr : t.cmp.round = 0) : CmpContent t where
  work j h1 h2 := by
    rw [State.validEnd, if_pos hs] at h1
    rw [State.loValid, hr] at h2
    omega
  reach he := absurd (hs.symm.trans he) (by decide)
  bucket he := absurd (hs.symm.trans he) (by decide)

/-- STAGE puts the next input bytes where the load region begins. -/
theorem CmpContent.stage (h : CmpContent s) (hb : CmpBusy P s) (hs : s.cmp.cstate = .staging) :
    (stage s).Holds (fun _ => CmpContent) E := by
  have hv : s.validEnd = s.base := if_pos hs
  have hread := (pull_read hb.bounded.memories.work s.base 4096 s).2
  have hwork := h.work
  rw [hv] at hwork
  rw [stage_eq (hb.cmp.staging hs)]
  refine ⟨fun j h1 h2 => ?_, fun he => absurd he (by simp), fun he => absurd he (by simp)⟩
  have h1 : j < s.base + pullCount s 4096 := h1
  have h2 : s.loValid ≤ j := h2
  show (pull s.cmp.work s.base 4096 s).1.read j =
    s.hostIn.read (s.tc.inCur + pullCount s 4096 + j - (s.base + pullCount s 4096))
  rw [hread, show s.tc.inCur + pullCount s 4096 + j - (s.base + pullCount s 4096) = s.tc.inCur + j - s.base by omega]
  split_ifs with hin
  · exact congrArg _ (by omega)
  · exact hwork j (by omega) h2

/-- INDEX_BUILD indexes the positions from `IDX_LO` on. -/
theorem CmpContent.analyze (h : CmpContent s) (hb : CmpBusy P s) (hs : s.cmp.cstate = .analyze) :
    (analyze s).Holds (fun _ => CmpContent) E := by
  have hv : s.validEnd = s.cmp.loadEnd := if_neg (by rw [hs]; decide)
  have hwork := h.work
  rw [hv] at hwork
  obtain ⟨htab, idx, he, hf, hbucket⟩ := hb.analyze_eq_ok hs
  rw [he]
  have hcount : s.idxCount = s.cmp.loadEnd - 1 - s.idxLo := rfl
  refine ⟨hwork, fun _ => ?_, fun _ b hb => ?_⟩
  · show s.cmp.loadEnd - 1 - s.idxCount ≤ s.idxLo
    omega
  · rw [bucket_of_slots (work := s.cmp.work) (lo := s.idxLo) (n := s.idxCount) rfl hf hb]
    refine (hbucket b hb).trans ?_
    show bucketOf s.cmp.work s.idxLo s.idxCount b = bucketOf s.cmp.work (s.cmp.loadEnd - 1 - s.idxCount) s.idxCount b
    by_cases h0 : s.idxCount = 0
    · rw [h0]
      rfl
    · rw [show s.cmp.loadEnd - 1 - s.idxCount = s.idxLo by omega]

/-- A token emitted moves the cursor on, so that a search reaches back no further. -/
theorem Emitted.content (he : Emitted c s u) (h : CmpContent s) : CmpContent u := by
  have hframe := he.frame
  rw [hframe]
  refine ⟨h.work, fun hc => (h.reach hc).trans ?_, h.bucket⟩
  show max s.loValid (s.cmp.cur - s.dsize) ≤ max s.loValid (s.cmp.cur + c.2 - s.dsize)
  omega

/-- After the round the claims about the index are gone, and `WORK` is as it was. -/
theorem CmpContent.leaveEmit (h : CmpContent s) (hs : s.cmp.cstate = .emit) {d : CState} (hd : d ≠ .emit) (hd' : d ≠ .staging) :
    CmpContent (s.setCstate d) := by
  have hv : s.validEnd = s.cmp.loadEnd := if_neg (by rw [hs]; decide)
  have hv' : (s.setCstate d).validEnd = s.validEnd := (if_neg hd').trans hv.symm
  refine ⟨fun j h1 h2 => ?_, fun he => absurd he hd, fun he => absurd he hd⟩
  rw [hv'] at h1 ⊢
  exact h.work j h1 h2

/-- SHIFT moves the bytes and with them the place their stream positions are counted from. -/
theorem CmpContent.shift (h : CmpContent s) (hb : CmpBusy P s) (hs : s.cmp.cstate = .shift) :
    (shift s).Holds (fun _ => CmpContent) E := by
  have hv : s.validEnd = s.cmp.loadEnd := if_neg (by rw [hs]; decide)
  obtain ⟨hl, -, hnl⟩ := hb.cmp.loaded (by rw [hs]; decide)
  have hnl := hnl (hb.cmp.shift hs).1
  have hround := hb.bounded.widths.round
  have hd := (dsize_bounds hb.cmp.wsize).2
  have hbase : s.base = s.dsize + 516 := rfl
  have hlo : s.loValid = s.base - 4096 * s.cmp.round := rfl
  have hwork := h.work
  rw [hv] at hwork
  obtain ⟨t, he, hread, hlo', hframe⟩ := shiftMovesTheWindowDown s hb.bounded.memories.work (hb.shift_cur hs)
  rw [he]
  have hst : t.cmp.cstate = .staging := congrArg (·.cmp.cstate) hframe
  have htb : t.validEnd = s.base := (if_pos hst).trans (by rw [hframe]; rfl)
  have htin : t.tc.inCur = s.tc.inCur := congrArg (·.tc.inCur) hframe
  have hthost : t.hostIn = s.hostIn := congrArg (·.hostIn) hframe
  refine ⟨fun j h1 h2 => ?_, fun hc => absurd (hst.symm.trans hc) (by decide), fun hc => absurd (hst.symm.trans hc) (by decide)⟩
  rw [htb] at h1 ⊢
  rw [hlo'] at h2
  rw [hread, if_pos ⟨by omega, h1⟩, hwork (j + 4096) (by omega) (by omega), htin, hthost]
  exact congrArg _ (by omega)

/-- A step of CMP keeps what `WORK` and the index hold, unless it ends the command. -/
theorem CmpContent.cmpStep (h : CmpContent s) (hb : CmpBusy P s) (hT : EncoderTables P.tables) :
    (cmpStep P s).Holds (fun _ t => t.busy = true → CmpContent t) (fun t => t.busy = true → CmpContent t) := by
  have hfail : ∀ u : State, (u.fail P .cmp .push).busy = true → CmpContent (u.fail P .cmp .push) :=
    fun u hu => absurd ((fail_busy P .cmp .push u).symm.trans hu) (by decide)
  unfold Machine.cmpStep
  cases hs : s.cmp.cstate with
  | idle => trivial
  | staging => exact (h.stage hb hs).mono fun _ _ ht _ => ht
  | analyze => exact (h.analyze hb hs).mono fun _ _ ht _ => ht
  | emit =>
    dsimp only
    rcases hb.emitState_cases hT hs with ⟨c, u, -, hu, ⟨-, he⟩ | ⟨-, he⟩⟩ | ⟨-, he⟩ <;> rw [he]
    · exact fun _ => hu.content h
    · exact hfail u
    · refine fun _ => h.leaveEmit hs ?_ ?_ <;> split_ifs <;> decide
  | shift => exact (h.shift hb hs).mono fun _ _ ht _ => ht
  | terminate =>
    dsimp only
    obtain ⟨u, -, ⟨-, he⟩ | ⟨-, he⟩⟩ := hb.terminate_cases hT <;> rw [he]
    · exact fun hu => absurd ((complete_busy .cmp u).symm.trans hu) (by decide)
    · exact hfail u
  | done => trivial
  | fail => trivial

theorem encoderTables_standard : EncoderTables standard.tables := by
  refine encoderTables_of_wf ?_
  have h := standard_wf
  simp only [Config.Params.wf, Bool.and_eq_true] at h
  exact h.1.1

/-- A command written to `CMD` starts CMP only in `C_STAGING` of its first round. -/
theorem cmpContent_step_idle (hb : s.busy = false) (hst : step s = .next t) (hc : t.running .cmp) : CmpContent t := by
  rcases step_idle_cases hb with he | he | he | he | ⟨r, he⟩ <;> rw [he] at hst <;> cases hst
  · exact absurd (hb.symm.trans hc.1) (by decide)
  · exact absurd ((fail_busy _ _ _ _).symm.trans hc.1) (by decide)
  · exact cmpContent_started rfl rfl
  · exact (not_running_both hc ⟨hc.1, rfl⟩).elim

/-- Settles O48: a step of CMP keeps the content, a command start claims none, and DEC never leads to a running CMP. -/
theorem stepKeepsTheCompressorContent : Obligations.StepKeepsTheCompressorContent := by
  intro s t h hcont hst htc
  rcases h.cases with hb | hc | hd
  · exact cmpContent_step_idle hb hst htc
  · have hk := ((hcont hc.running).cmpStep hc encoderTables_standard).outcome
    rw [← step_cmp hc.running, hst] at hk
    exact hk htc.1
  · have hk := decStepKept_step hd.running
    rw [hst] at hk
    have hcmd : t.cr.cmd = 2 := (hk.command.cmd htc.1).trans hd.running.2
    exact (not_running_both htc ⟨htc.1, hcmd⟩).elim

end Sys2Proof.Machine
end

section
/-! SUPPORT. FIND_MATCH looks into one bucket only, and finds what a search of the whole dictionary would (R205 to R210); and what it
finds is `FM` of the whole input (R215). The rules of the match finder under `CmpContent`. -/

namespace Sys2Proof.Machine

/-! ### The loop over candidates, and the choice of R215 -/

/-- The loop of FIND_MATCH over candidates that are all in the window, `run q` being the length of the match at `q`. -/
def scanRuns (run : Nat → Nat) (p : Nat) (cands : List Nat) (best : Nat × Nat) : Nat × Nat :=
  match cands with
  | [] => best
  | q :: rest => if run q = Config.maxRep then improve (run q) p q best else scanRuns run p rest (improve (run q) p q best)

/-- Candidates below the floor are skipped. -/
theorem scanBucket_skip {work : Memory} {p l floor : Nat} (before : List Nat) (hb : ∀ q ∈ before, q < floor) (cands : List Nat)
    (best : Nat × Nat) : scanBucket work p l floor (before ++ cands) best = scanBucket work p l floor cands best := by
  induction before with
  | nil => rfl
  | cons q rest ih =>
    rw [List.cons_append, scanBucket, if_pos (hb q List.mem_cons_self), ih fun r hr => hb r (List.mem_cons_of_mem q hr)]

/-- Those in the window are tried, and the first one past it ends the loop. -/
theorem scanBucket_eq_scanRuns {work : Memory} {p l floor : Nat} (cands after : List Nat) (ha : ∀ q ∈ after, floor ≤ q ∧ p ≤ q)
    (hc : ∀ q ∈ cands, floor ≤ q ∧ q < p) (best : Nat × Nat) :
    scanBucket work p l floor (cands ++ after) best = scanRuns (fun q => matchLen work q p l) p cands best := by
  induction cands generalizing best with
  | nil =>
    cases after with
    | nil => rfl
    | cons q rest =>
      obtain ⟨h1, h2⟩ := ha q List.mem_cons_self
      rw [List.nil_append, scanBucket, if_neg (Nat.not_lt.2 h1), if_pos h2, scanRuns]
  | cons q rest ih =>
    obtain ⟨h1, h2⟩ := hc q List.mem_cons_self
    rw [List.cons_append, scanBucket, if_neg (Nat.not_lt.2 h1), if_neg (Nat.not_le.2 h2), scanRuns]
    dsimp only
    rw [ih fun r hr => hc r (List.mem_cons_of_mem q hr)]

/-- A candidate of fewer than 2 matching bytes changes nothing. -/
theorem scanRuns_filter {run : Nat → Nat} {p : Nat} {g : Nat → Bool} (cands : List Nat)
    (hg : ∀ q ∈ cands, g q = false → run q < 2) (best : Nat × Nat) :
    scanRuns run p (cands.filter g) best = scanRuns run p cands best := by
  induction cands generalizing best with
  | nil => rfl
  | cons q rest ih =>
    have ih := fun best => ih (fun r hr => hg r (List.mem_cons_of_mem q hr)) best
    cases hgq : g q with
    | true =>
      rw [List.filter_cons_of_pos hgq, scanRuns, scanRuns, ih]
    | false =>
      have hlt := hg q List.mem_cons_self hgq
      have hrep : run q ≠ 516 := by omega
      rw [List.filter_cons_of_neg (by simp [hgq]), ih, scanRuns, if_neg hrep, improve, if_neg (by omega)]

/-- The best of candidates none of which has 516 bytes. -/
def bestOf (run : Nat → Nat) (p : Nat) (cands : List Nat) : Nat × Nat := cands.foldl (fun best q => improve (run q) p q best) (0, 0)

/-- The length of the longest match among candidates. -/
def longest (run : Nat → Nat) (cands : List Nat) : Nat := cands.foldl (fun m q => max m (run q)) 0

/-- Keeping the later of equals finds the nearest of the longest (R207, R209). -/
theorem bestOf_eq (run : Nat → Nat) (p : Nat) (cands : List Nat) :
    bestOf run p cands = (if longest run cands < 2 then (0, 0) else
      match cands.reverse.find? fun q => run q == longest run cands with
      | some q => (longest run cands, p - q - 1)
      | none => (0, 0)) ∧ (2 ≤ longest run cands → (bestOf run p cands).1 = longest run cands) := by
  induction cands using List.reverseRecOn with
  | nil => exact ⟨rfl, fun h => absurd h (by simp [longest])⟩
  | append_singleton l q ih =>
    obtain ⟨ih1, ih2⟩ := ih
    have hbest : bestOf run p (l ++ [q]) = improve (run q) p q (bestOf run p l) := List.foldl_concat _ _ _ _
    have hlong : longest run (l ++ [q]) = max (longest run l) (run q) := List.foldl_concat _ _ _ _
    have h1 : longest run l < 2 → bestOf run p l = (0, 0) := fun h => by rw [ih1, if_pos h]
    rw [hbest, hlong, List.reverse_append, List.reverse_singleton, List.singleton_append, improve]
    by_cases hwin : 2 ≤ run q ∧ (bestOf run p l).1 ≤ run q
    · have hle : longest run l ≤ run q := by
        by_cases h2 : longest run l < 2
        · omega
        · rw [← ih2 (by omega)]
          exact hwin.2
      rw [if_pos hwin, Nat.max_eq_right hle, if_neg (by omega), List.find?_cons_of_pos (by simp)]
      exact ⟨rfl, fun _ => rfl⟩
    · rw [if_neg hwin]
      by_cases h2 : longest run l < 2
      · rw [h1 h2] at hwin ⊢
        have : run q < 2 := Nat.lt_of_not_le fun h => hwin ⟨h, Nat.zero_le _⟩
        rw [if_pos (by omega)]
        exact ⟨rfl, fun h => by omega⟩
      · have hb := ih2 (by omega)
        rw [hb] at hwin
        rw [Nat.max_eq_left (by omega), List.find?_cons_of_neg (by simp; omega)]
        exact ⟨ih1, fun _ => hb⟩

/-- Without a candidate of 516 bytes the loop tries all. -/
theorem scanRuns_eq_bestOf {run : Nat → Nat} {p : Nat} (cands : List Nat) (h : ∀ q ∈ cands, run q ≠ 516) (best : Nat × Nat) :
    scanRuns run p cands best = cands.foldl (fun best q => improve (run q) p q best) best := by
  induction cands generalizing best with
  | nil => rfl
  | cons q rest ih =>
    rw [scanRuns, if_neg (h q List.mem_cons_self), ih fun r hr => h r (List.mem_cons_of_mem q hr), List.foldl_cons]

/-- The first candidate of 516 bytes ends the loop and is chosen (R208). -/
theorem scanRuns_full {run : Nat → Nat} {p q : Nat} {before after : List Nat} (hr : ∀ r, run r ≤ 516)
    (hq : run q = 516) (hb : ∀ r ∈ before, run r ≠ 516) (best : Nat × Nat) (hbest : best.1 ≤ 516) :
    scanRuns run p (before ++ q :: after) best = (516, p - q - 1) := by
  induction before generalizing best with
  | nil => rw [List.nil_append, scanRuns, if_pos hq, hq, improve, if_pos ⟨by decide, hbest⟩]
  | cons r rest ih =>
    rw [List.cons_append, scanRuns, if_neg (hb r List.mem_cons_self)]
    refine ih (fun x hx => hb x (List.mem_cons_of_mem r hx)) _ ?_
    unfold improve
    split_ifs
    · exact hr r
    · exact hbest

/-- The loop makes the choice of R215. -/
theorem scanRuns_eq_archPick {run : Nat → Nat} (p : Nat) (cands : List Nat) (hr : ∀ r, run r ≤ 516) :
    scanRuns run p cands (0, 0) = archPick run p cands := by
  unfold archPick
  cases hf : cands.find? fun q => run q == Config.maxRep with
  | none =>
    have hno : ∀ q ∈ cands, run q ≠ 516 := fun q hq hc => by
      have := List.find?_eq_none.1 hf q hq
      simp [hc] at this
    rw [scanRuns_eq_bestOf cands hno]
    exact (bestOf_eq run p cands).1
  | some q =>
    obtain ⟨hq, before, after, rfl, hb⟩ := List.find?_eq_some_iff_append.1 hf
    refine scanRuns_full hr (by simpa using hq) (fun r hr' hc => ?_) _ (Nat.zero_le _)
    have := hb r hr'
    simp [hc] at this

/-! ### One bucket is enough (R203, R204) -/

/-- Two bytes that match have the same hash, so a candidate of another bucket has fewer. -/
theorem matchLen_lt_two {work : Memory} {q p n : Nat} (h : hashAt work q ≠ hashAt work p) : matchLen work q p n < 2 := by
  by_contra hc
  apply h
  match n with
  | 0 => exact absurd (Nat.zero_lt_two) hc
  | 1 =>
    have := matchLen_le work 1 q p
    omega
  | n + 2 =>
    rw [matchLen] at hc
    split_ifs at hc with h1
    · rw [matchLen] at hc
      split_ifs at hc with h2
      · rw [hashAt, hashAt, h1, h2]
      · exact absurd (by decide) hc
    · exact absurd (by decide) hc

variable {P : Config.Params} {s : State} {p : Nat}

/-- The scan of one bucket of the index makes the choice of R215 among all positions of the dictionary. -/
theorem scanBucket_bucketOf (work : Memory) {lo n l floor : Nat} (hl : l ≤ 516) (h1 : lo ≤ floor) (h2 : floor ≤ p) (h3 : p ≤ lo + n) :
    scanBucket work p l floor (bucketOf work lo n (hashAt work p)) (0, 0) =
      archPick (fun q => matchLen work q p l) p (List.range' floor (p - floor)) := by
  have hsplit : List.range' lo n = List.range' lo (floor - lo) ++ (List.range' floor (p - floor) ++ List.range' p (lo + n - p)) := by
    have e1 := List.range'_append (s := floor) (m := p - floor) (n := lo + n - p) (step := 1)
    have e2 := List.range'_append (s := lo) (m := floor - lo) (n := p - floor + (lo + n - p)) (step := 1)
    rw [Nat.one_mul, Nat.add_sub_cancel' h2] at e1
    rw [Nat.one_mul, Nat.add_sub_cancel' h1, ← e1] at e2
    rw [e2]
    congr 1
    omega
  rw [bucketOf, hsplit, List.filter_append, List.filter_append, scanBucket_skip _ fun q hq => ?_,
    scanBucket_eq_scanRuns _ _ (fun q hq => ?_) fun q hq => ?_, scanRuns_filter _ fun q _ hq => ?_,
    scanRuns_eq_archPick _ _ fun q => (matchLen_le _ _ _ _).trans hl]
  · exact matchLen_lt_two (by simpa using hq)
  · have := List.mem_range'_1.1 (List.mem_of_mem_filter hq)
    omega
  · have := List.mem_range'_1.1 (List.mem_of_mem_filter hq)
    omega
  · have := List.mem_range'_1.1 (List.mem_of_mem_filter hq)
    omega

/-- FIND_MATCH at or after the cursor: the choice of R215 among the positions of the dictionary that `WORK` holds. -/
theorem CmpContent.findMatch (hcont : CmpContent s) (h : CmpBusy P s) (hs : s.cmp.cstate = .emit) (hlo : s.cmp.cur ≤ p)
    (hhi : p < s.cmp.loadEnd) :
    findMatch p s = .ok (if s.maxLenAt p < 2 then (0, 0) else lengthTwoRule
      (archPick (fun q => matchLen s.cmp.work q p (s.maxLenAt p)) p (List.range' (s.floorAt p) (p - s.floorAt p)))) := by
  obtain ⟨m, hm, -⟩ := h.findMatch hs p
  have hcur := h.cmp.curValid
  have hreach := hcont.reach hs
  have hbucket := hcont.bucket hs _ (hashAt_lt s.cmp.work p)
  have hidx : s.indexLo = s.cmp.loadEnd - 1 - s.cmp.nidx := rfl
  have hidxLo : s.idxLo = max s.loValid (s.cmp.cur - s.dsize) := rfl
  have hfloor : s.floorAt p = max s.loValid (p - s.dsize) := rfl
  rw [hm]
  unfold Machine.findMatch at hm
  dsimp only at hm
  by_cases h2 : s.maxLenAt p < 2
  · rw [if_pos h2] at hm ⊢
    exact hm.symm
  · rw [if_neg h2] at hm ⊢
    split_ifs at hm
    rw [← Except.ok.inj hm, hbucket]
    exact congrArg (fun m => Except.ok (lengthTwoRule m))
      (scanBucket_bucketOf s.cmp.work (Nat.min_le_left _ _) (by omega) (by omega) (by omega))

/-! ### `FM` of the whole input (R215) -/

theorem matchLen_congr {w x : Memory} (n : Nat) : ∀ q p Q P', (∀ i < n, w.read (q + i) = x.read (Q + i)) →
    (∀ i < n, w.read (p + i) = x.read (P' + i)) → matchLen w q p n = matchLen x Q P' n := by
  induction n with
  | zero => intro q p Q P' _ _; rfl
  | succ n ih =>
    intro q p Q P' hq hp
    have hq0 : w.read q = x.read Q := hq 0 (Nat.succ_pos n)
    have hp0 : w.read p = x.read P' := hp 0 (Nat.succ_pos n)
    have hsucc : ∀ {a b : Nat}, (∀ i < n + 1, w.read (a + i) = x.read (b + i)) →
        ∀ i < n, w.read (a + 1 + i) = x.read (b + 1 + i) := fun h i hi => by
      have := h (i + 1) (Nat.succ_lt_succ hi)
      rwa [← Nat.add_assoc, ← Nat.add_assoc, Nat.add_right_comm, Nat.add_right_comm _ i] at this
    rw [matchLen, matchLen, hq0, hp0, ih _ _ _ _ (hsucc hq) (hsucc hp)]

/-- The choice does not depend on where positions are counted from. -/
theorem archPick_map {run run' : Nat → Nat} {p p' : Nat} (f : Nat → Nat) (cands : List Nat)
    (hr : ∀ q ∈ cands, run' (f q) = run q) (hp : ∀ q ∈ cands, p' - f q - 1 = p - q - 1) :
    archPick run' p' (cands.map f) = archPick run p cands := by
  have hfind : ∀ l : List Nat, (∀ q ∈ l, q ∈ cands) → ∀ k, (l.map f).find? (fun q => run' q == k) =
      (l.find? fun q => run q == k).map f := fun l hl k => by
    rw [List.find?_map]
    congr 1
    refine List.find?_congr fun q hq => ?_
    rw [Function.comp_apply, hr q (hl q hq)]
  have hlong : (cands.map f).foldl (fun m q => max m (run' q)) 0 = cands.foldl (fun m q => max m (run q)) 0 := by
    rw [List.foldl_map]
    exact List.foldl_ext _ _ _ fun m q hq => by rw [hr q hq]
  unfold archPick
  rw [hfind cands (fun _ h => h), hlong, ← List.map_reverse]
  dsimp only
  rw [hfind cands.reverse fun q hq => List.mem_reverse.1 hq]
  cases h1 : cands.find? fun q => run q == Config.maxRep with
  | some q =>
    rw [Option.map_some]
    dsimp only
    rw [hp q (List.mem_of_find?_eq_some h1)]
  | none =>
    rw [Option.map_none]
    dsimp only
    split_ifs
    · rfl
    · cases h2 : cands.reverse.find? fun q => run q == cands.foldl (fun m q => max m (run q)) 0 with
      | some q =>
        rw [Option.map_some]
        dsimp only
        rw [hp q (List.mem_reverse.1 (List.mem_of_find?_eq_some h2))]
      | none => rfl

/-- FIND_MATCH of a scanned position or the next one: neither rounds nor shifts nor the index show in it (R215, R236). -/
theorem CmpContent.findMatch_eq_archMatch (hcont : CmpContent s) (h : CmpBusy P s) (hs : s.cmp.cstate = .emit)
    (hcur : s.cmp.cur < s.cmp.scanEnd) (hlo : s.cmp.cur ≤ p) (hnext : p ≤ s.cmp.cur + 1) (hhi : p < s.cmp.loadEnd) :
    Machine.findMatch p s = .ok (archMatch s.dsize s.hostIn s.tc.inLen (s.tc.inCur + p - s.cmp.loadEnd)) := by
  have hne : s.cmp.cstate ≠ .staging := by rw [hs]; decide
  have hv : s.validEnd = s.cmp.loadEnd := if_neg hne
  obtain ⟨hl, hsc, hnl⟩ := h.cmp.loaded hne
  have hbase : s.base = s.dsize + 516 := rfl
  have hvalid := h.cmp.curValid
  have hcurLo := h.cmp.curLo
  have hpos := h.cmp.position
  have hstart := h.cmp.fromStart
  have hin := h.bounded.widths.inCur
  have hend := h.cmp.endSeen
  have hwork := hcont.work
  rw [hv] at hpos hstart hwork
  have hfloor : s.floorAt p = max s.loValid (p - s.dsize) := rfl
  have hmaxLen : s.maxLenAt p = min 516 (s.cmp.loadEnd - p) := rfl
  have hmax : archMaxLen s.tc.inLen (s.tc.inCur + p - s.cmp.loadEnd) = s.maxLenAt p := by
    show min 516 (s.tc.inLen - (s.tc.inCur + p - s.cmp.loadEnd)) = s.maxLenAt p
    cases he : s.cmp.ended with
    | true =>
      have := hend he
      omega
    | false =>
      have := hnl he
      rw [he, if_neg (by decide)] at hsc
      omega
  have hread : ∀ j, s.loValid ≤ j → ∀ i, j + i < s.cmp.loadEnd →
      s.cmp.work.read (j + i) = s.hostIn.read (s.tc.inCur + j - s.cmp.loadEnd + i) := fun j hj i hi => by
    rw [hwork (j + i) hi (by omega)]
    exact congrArg _ (by omega)
  rw [hcont.findMatch h hs hlo hhi, archMatch, hmax]
  by_cases h2 : s.maxLenAt p < 2
  · rw [if_pos h2, if_pos h2]
  · rw [if_neg h2, if_neg h2]
    have hcands : archCands s.dsize (s.tc.inCur + p - s.cmp.loadEnd) =
        (List.range' (s.floorAt p) (p - s.floorAt p)).map fun q => s.tc.inCur + q - s.cmp.loadEnd := by
      unfold archCands
      refine List.ext_getElem (by simp; omega) fun i h1 h2 => ?_
      simp only [List.length_range'] at h1
      simp only [List.getElem_range', List.getElem_map, Nat.one_mul]
      omega
    rw [hcands, archPick_map (run := fun q => matchLen s.cmp.work q p (s.maxLenAt p)) (p := p) _ _ (fun q hq => ?_)
      (fun q hq => ?_)]
    · have := List.mem_range'_1.1 hq
      unfold archRun
      rw [hmax]
      exact (matchLen_congr _ _ _ _ _ (fun i hi => hread q (by omega) i (by omega))
        fun i hi => hread p (by omega) i (by omega)).symm
    · have := List.mem_range'_1.1 hq
      omega

end Sys2Proof.Machine
end

section
/-! SUPPORT. Total correctness: an operation goes on, or ends the step with a next state; it neither faults nor is refused. That the
reading of a field, and with it the fetch of a token row, is total. -/

namespace Sys2Proof.Machine

/-- The step answers a next state. -/
def Answered (o : Host.Outcome State Fault Refusal) : Prop := ∃ t, o = .next t

/-- The operation goes on, with `Q`, or ends the step with a next state. -/
def Res.Total {α : Type} (Q : α → State → Prop) (r : Res α) : Prop :=
  match r with
  | .ok v s => Q v s
  | .stop o => Answered o

section Rules

variable {α β : Type} {Q : α → State → Prop} {R : β → State → Prop} {E : State → Prop}

theorem Res.Total.mono {Q' : α → State → Prop} {r : Res α} (h : r.Total Q) (hQ : ∀ v s, Q v s → Q' v s) : r.Total Q' := by
  cases r with
  | ok v s => exact hQ v s h
  | stop o => exact h

theorem Res.Total.bind {r : Res α} {f : α → State → Res β} (h : r.Total Q) (hf : ∀ v s, Q v s → (f v s).Total R) :
    (r.bind f).Total R := by
  cases r with
  | ok v s => exact hf v s h
  | stop o => exact h

/-- What holds of an operation if it goes on, holds of a total one. -/
theorem Res.Holds.total {r : Res α} (h : r.Holds Q E) (ht : r.Total fun _ _ => True) : r.Total Q := by
  cases r with
  | ok v s => exact h
  | stop o => exact ht

theorem Res.Total.outcome {Q : Unit → State → Prop} {r : Res Unit} (h : r.Total Q) : Answered r.outcome := by
  cases r with
  | ok v s => exact ⟨s, rfl⟩
  | stop o => exact h

theorem answered_step_of_fetch {s : State} (hs : s.running .dec) {r : Res Instr} (hf : decFetch standard s = r.fetched)
    (h : r.Total fun i t => Answered (exec i t)) : Answered (step s) := by
  rw [step_dec hs, hf]
  cases r with
  | ok i t => exact h
  | stop o => exact h

theorem answered_step_of_done {s : State} (hs : s.running .dec) {Q : Unit → State → Prop} {r : Res Unit}
    (hf : decFetch standard s = .done r.outcome) (h : r.Total Q) : Answered (step s) := by
  rw [step_dec hs, hf]
  exact h.outcome

end Rules

/-! ### Reading a field -/

variable {P : Config.Params} {r s : State}

theorem ReaderOk.peek_total (h : ReaderOk s) {k : Nat} (h1 : 1 ≤ k) (h8 : k ≤ 8) : (Machine.peek k s).Total fun _ _ => True := by
  obtain ⟨t, he, -⟩ := h.peek h1 h8
  rw [he]
  trivial

theorem ReaderOk.consume_total (h : ReaderOk s) {k : Nat} (h1 : 1 ≤ k) (h8 : k ≤ 8) :
    (Machine.consume P k s).Total fun _ _ => True := by
  rcases h.consume P h1 h8 with ⟨-, t, he, -⟩ | ⟨-, t, he, -⟩ <;> rw [he]
  · trivial
  · exact ⟨_, rfl⟩

theorem ReadFrom.peek_total (h : ReadFrom r s) {k : Nat} (h1 : 1 ≤ k) (h8 : k ≤ 8) :
    (Machine.peek k s).Total fun v t => ReadFrom r t ∧ v < 2 ^ k :=
  (h.peek (E := fun _ => True) k).total (h.reader.peek_total h1 h8)

theorem ReadFrom.consume_total (h : ReadFrom r s) {k : Nat} (h1 : 1 ≤ k) (h8 : k ≤ 8) :
    (Machine.consume P k s).Total fun _ t => ReadFrom r t :=
  (h.consume (E := fun _ => True) (fun _ _ => trivial) k).total (h.reader.consume_total h1 h8)

theorem ReadFrom.readBits_total (h : ReadFrom r s) {k : Nat} (h1 : 1 ≤ k) (h8 : k ≤ 8) :
    (Machine.readBits P k s).Total fun v t => ReadFrom r t ∧ v < 2 ^ k :=
  (h.peek_total h1 h8).bind fun _ _ ht => (ht.1.consume_total h1 h8).bind fun _ _ hu => ⟨hu, ht.2⟩

theorem ReadFrom.readExtra_total (h : ReadFrom r s) {i : Nat} (h8 : lenExtra P.tables i ≤ 8) :
    (Machine.readExtra P i s).Total fun _ t => ReadFrom r t := by
  unfold Machine.readExtra
  by_cases h0 : lenExtra P.tables i = 0
  · rw [if_pos h0]
    exact h
  · rw [if_neg h0]
    exact (h.readBits_total (Nat.pos_of_ne_zero h0) h8).mono fun _ _ ht => ht.1

/-! ### Decoding a class -/

/-- A cell of a jump table names a class, whatever the codes are: one without a code names class 0 (R178). -/
theorem getD_buildJump_lt {bits codes : List Nat} (hfit : ∀ p ∈ bits.zip codes, p.2 < 2 ^ p.1) (hpos : 0 < bits.length) {x : Nat}
    (hx : x < 256) : (buildJump bits codes).getD x 0 < bits.length := by
  rw [getD_buildJump hfit hx]
  cases hc : classOf bits codes x 0 with
  | none => exact hpos
  | some c => exact (classOf_lt _ _ _ hc).trans_eq (Nat.zero_add _)

theorem getD_builtLenj_lt {x : Nat} (hx : x < 256) : (builtLenj tPkware).getD x 0 < 16 := by
  unfold builtLenj
  exact getD_buildJump_lt (by decide) (by decide) hx

theorem getD_builtDistj_lt {x : Nat} (hx : x < 256) : (builtDistj tPkware).getD x 0 < 64 := by
  unfold builtDistj
  exact getD_buildJump_lt (by decide) (by decide) hx

/-- The offset codes of `T_PKWARE` are read by one PEEK (R171, R172). -/
theorem distBits_tPkware : ∀ c < 64, 1 ≤ distBits tPkware c ∧ distBits tPkware c ≤ 8 := by decide

theorem SameButReader.lenj (h : SameButReader r s) : s.dec.lenj = r.dec.lenj := congrArg (·.dec.lenj) h

theorem SameButReader.distj (h : SameButReader r s) : s.dec.distj = r.dec.distj := congrArg (·.dec.distj) h

theorem SameButReader.hdr (h : SameButReader r s) : s.hdr = r.hdr := congrArg (·.hdr) h

/-- The low field of an offset has one of the four widths of R110. -/
theorem lowWidth_mem {w : Byte} (hw : legalWsize w = true) (len : Nat) : lowWidth len w ∈ [2, 4, 5, 6] := by
  unfold lowWidth
  split_ifs
  · decide
  · rcases legalWsize_iff.1 hw with rfl | rfl | rfl <;> decide

theorem lowOf_isSome {lw : Nat} (h : lw ∈ [2, 4, 5, 6]) (v : Nat) : ∃ low, lowOf lw v = some low := by
  simp only [List.mem_cons, List.not_mem_nil, or_false] at h
  rcases h with rfl | rfl | rfl | rfl <;> exact ⟨_, rfl⟩

theorem lenInstr_isSome (T : Config.CodeTables) {c : Nat} (hc : c < 16) (e : Nat) : ∃ i, lenInstr T c e = some i := by
  unfold lenInstr
  split_ifs
  · exact ⟨_, rfl⟩
  · interval_cases c <;> exact ⟨_, rfl⟩

theorem distInstr_isSome {c : Nat} (hc : c < 64) (low : Low) : ∃ i, distInstr c low = some i := by
  interval_cases c <;> exact ⟨_, rfl⟩

section Fetch

variable (h : RowReady standard s)
include h

theorem RowReady.decodeLen_total : (Machine.decodeLen standard s).Total fun p t => ReadFrom s t ∧ p.1 < 16 := by
  refine (h.readFrom.peek_total (k := 8) (by decide) (by decide)).bind ?_
  rintro x t ⟨ht, hx⟩
  have hc : t.dec.lenj.getD x 0 < 16 := by
    rw [ht.frame.lenj, h.tables.lenj]
    exact getD_builtLenj_lt hx
  obtain ⟨h1, h8, hext⟩ := lenBits_tPkware _ hc
  exact (ht.consume_total h1 h8).bind fun _ u hu => (hu.readExtra_total hext).bind fun _ v hv => ⟨hv, hc⟩

theorem RowReady.decodeOff_total (len : Nat) : (Machine.decodeOff standard len s).Total fun p t => ReadFrom s t ∧ p.1 < 64 := by
  refine (h.readFrom.peek_total (k := 8) (by decide) (by decide)).bind ?_
  rintro x t ⟨ht, hx⟩
  have hc : t.dec.distj.getD x 0 < 64 := by
    rw [ht.frame.distj, h.tables.distj]
    exact getD_builtDistj_lt hx
  obtain ⟨h1, h8⟩ := distBits_tPkware _ hc
  refine (ht.consume_total h1 h8).bind fun _ u hu => ?_
  have hw := lowWidth_mem (hu.frame.hdr ▸ h.tables.wsize) len
  have hlow : 1 ≤ lowWidth len u.hdr.wsize ∧ lowWidth len u.hdr.wsize ≤ 8 := by
    simp only [List.mem_cons, List.not_mem_nil, or_false] at hw
    omega
  exact (hu.readBits_total hlow.1 hlow.2).bind fun _ v hv => ⟨hv.1, hc⟩

/-! ### The rows, and the fetches that answer them -/

omit h in
theorem answered_setCopyLength (c e : Nat) (t : State) : Answered (setCopyLength P c e t) := ⟨_, rfl⟩

theorem RowReady.answered_storeLiteral (b : Byte) : Answered (Machine.storeLiteral standard b s) := by
  have hw := h.wpos
  unfold Machine.storeLiteral
  rw [if_neg (by show ¬ 8710 ≤ s.dec.wpos; omega)]
  exact ⟨_, rfl⟩

/-- An offset the history reaches lies below the cursor, and a copy of 518 bytes ends inside `WIN` (R85, R267). -/
theorem RowReady.answered_copyFromOffset (c : Nat) (low : Low) : Answered (Machine.copyFromOffset standard c low s) := by
  have hw := h.wpos
  have hlo := h.bounded.widths.wposLo
  have hlen := h.bounded.widths.tLen
  have hhist := h.bounded.widths.hist
  unfold Machine.copyFromOffset
  dsimp only
  split_ifs with hh
  · exact ⟨_, rfl⟩
  · unfold copyExec
    rw [if_neg]
    · exact ⟨_, rfl⟩
    · show ¬ (s.dec.wpos < offsetOf c low + 1 ∨ 8710 < s.dec.wpos + s.dec.tLen)
      omega

theorem RowReady.fetchLiteral_total : (Machine.fetchLiteral standard s).Total fun i t => Answered (exec i t) := by
  refine (h.readFrom.readBits_total (by decide) (by decide)).bind ?_
  rintro b t ⟨ht, -⟩
  exact (h.of_readFrom ht).answered_storeLiteral _

theorem RowReady.fetchLength_total : (Machine.fetchLength standard s).Total fun i t => Answered (exec i t) := by
  refine h.decodeLen_total.bind ?_
  rintro ⟨c, e⟩ t ⟨-, hc⟩
  obtain ⟨i, hi⟩ := lenInstr_isSome standard.tables hc e
  dsimp only
  rw [hi]
  rcases lenInstr_eq_some hi with ⟨-, rfl⟩ | ⟨-, -, hexec⟩
  · exact ⟨_, rfl⟩
  · show Answered (exec i t)
    rw [hexec]
    exact answered_setCopyLength ..

theorem RowReady.fetchOffset_total : (Machine.fetchOffset standard s).Total fun i t => Answered (exec i t) := by
  refine (h.decodeOff_total _).bind ?_
  rintro ⟨c, v⟩ t ⟨ht, hc⟩
  obtain ⟨low, hlow⟩ := lowOf_isSome (lowWidth_mem (ht.frame.hdr ▸ h.tables.wsize) t.dec.tLen) v
  obtain ⟨i, hi⟩ := distInstr_isSome hc low
  dsimp only
  rw [hlow, Option.bind_some, hi]
  show Answered (exec i t)
  rw [(distInstr_eq_some hi).2]
  exact (h.of_readFrom ht).answered_copyFromOffset c low

theorem RowReady.fetchToken_total : (Machine.fetchToken standard s).Total fun i t => Answered (exec i t) := by
  refine (h.readFrom.readBits_total (by decide) (by decide)).bind ?_
  rintro sel t ⟨ht, -⟩
  have hrow := h.of_readFrom ht
  split_ifs
  · exact (hrow.setDstate .literal).fetchLiteral_total
  · exact (hrow.setDstate .copy).fetchLength_total

end Fetch

end Sys2Proof.Machine
end

section
/-! SUPPORT. Every step of the invariant answers a next state: DEC's by the bounds of its window, CMP's by what its states answer. -/

namespace Sys2Proof.Machine

variable {s : State}

/-! ### DEC -/

theorem answered_checkHeader (w : Byte) (t : State) : Answered (checkHeader standard w t) := by
  unfold checkHeader
  dsimp only
  split_ifs <;> exact ⟨_, rfl⟩

theorem DecBusy.fetchHeader_total (h : DecBusy standard s) : (Machine.fetchHeader standard s).Total fun i t => Answered (exec i t) := by
  unfold Machine.fetchHeader
  rcases h.dec.reader.nextByte with ⟨-, t, he, -⟩ | ⟨b, t, he, -⟩ <;> rw [he, Res.bind_ok]
  · exact ⟨_, rfl⟩
  · show Answered (exec (if t.dec.hdrByte0.isNone then .hdr0 b else .hdr1 b) t)
    split_ifs
    · exact ⟨_, rfl⟩
    · exact answered_checkHeader b t

/-- A push from inside its memory does not fault: it moves the bytes, or sets `STOP`. -/
theorem push_total {m : Memory} {size a n : Nat} (f : Fault) (hn : a + n ≤ size) (s : State) :
    (push m size f a n s).Total fun _ _ => True := by
  rcases push_cases m size f a n s with ⟨-, he⟩ | ⟨-, hlt, -⟩ | ⟨-, -, -, he⟩ | ⟨-, -, -, he⟩
  · rw [he]; trivial
  · exact absurd hn (Nat.not_le_of_lt hlt)
  · rw [he]; trivial
  · rw [he]; trivial

theorem DecBusy.flushIfFull_total (h : DecBusy standard s) : (Machine.flushIfFull standard s).Total fun _ _ => True := by
  have hhi := h.bounded.widths.wposHi
  unfold Machine.flushIfFull
  split_ifs with hlow hout
  · trivial
  · have hout : 8710 < s.dec.wpos := hout
    omega
  · refine (push_total .winRange (by decide) s).bind fun _ t _ => ?_
    split_ifs
    · exact ⟨_, rfl⟩
    · trivial

theorem DecBusy.finalFlush_total (h : DecBusy standard s) : (Machine.finalFlush standard s).Total fun _ _ => True := by
  have hhi := h.bounded.widths.wposHi
  unfold Machine.finalFlush
  split_ifs
  · trivial
  · refine (push_total .winRange (by show 4096 + (s.dec.wpos - 4096) ≤ 8710; omega) s).bind fun _ t _ => ?_
    split_ifs
    · exact ⟨_, rfl⟩
    · trivial

/-- The bits of a token are read, its row's store ends inside `WIN`, and a flush pushes from inside it. -/
theorem DecBusy.answered_step (h : DecBusy standard s) : Answered (step s) := by
  have hstate := h.dec.state
  have hoff := h.dec.offset
  cases hd : s.dec.dstate <;> rw [hd] at hstate hoff
  case header =>
    exact answered_step_of_fetch h.running (by unfold Machine.decFetch; rw [hd]) h.fetchHeader_total
  case token =>
    exact answered_step_of_fetch h.running (by unfold Machine.decFetch; rw [hd])
      (h.rowReady (by rw [hd]; decide) (by rw [hd]; decide)).fetchToken_total
  case copy =>
    exact answered_step_of_fetch h.running (by unfold Machine.decFetch; rw [hd]; exact if_pos hoff)
      (h.rowReady (by rw [hd]; decide) (by rw [hd]; decide)).fetchOffset_total
  case flush => exact answered_step_of_done h.running (by unfold Machine.decFetch; rw [hd]) h.flushIfFull_total
  case eof => exact answered_step_of_done h.running (by unfold Machine.decFetch; rw [hd]) h.finalFlush_total
  all_goals exact absurd hstate (by decide)

/-! ### CMP -/

theorem CmpBusy.cmpStep_total (h : CmpBusy standard s) : (Machine.cmpStep standard s).Total fun _ _ => True := by
  have hstate := h.cmp.state
  unfold Machine.cmpStep
  cases hs : s.cmp.cstate <;> rw [hs] at hstate
  case staging => trivial
  case analyze =>
    obtain ⟨htab, idx, he, -⟩ := h.analyze_eq_ok hs
    show (Machine.analyze s).Total _
    rw [he]
    trivial
  case emit =>
    show (Machine.emitState standard s).Total _
    rcases h.emitState_cases encoderTables_standard hs with ⟨c, u, -, -, ⟨-, he⟩ | ⟨-, he⟩⟩ | ⟨-, he⟩ <;> rw [he]
    · trivial
    · exact ⟨_, rfl⟩
    · trivial
  case shift =>
    have hcur := h.shift_cur hs
    show (Machine.shift s).Total _
    unfold Machine.shift
    rw [if_neg (Nat.not_lt_of_le hcur)]
    trivial
  case terminate =>
    show (Machine.terminate standard s).Total _
    obtain ⟨u, -, ⟨-, he⟩ | ⟨-, he⟩⟩ := h.terminate_cases encoderTables_standard <;> rw [he]
    · trivial
    · exact ⟨_, rfl⟩
  all_goals exact absurd hstate (by decide)

/-! ### Between commands -/

/-- COMPRESS starts CMP or takes BAD_WSIZE_CFG; the parameters are well formed. -/
theorem answered_runCompress (hb : s.busy = false) : Answered (runCompress standard s) := by
  rcases runCompress_cases standard s with ⟨hb', -⟩ | ⟨-, hwf, -⟩ | ⟨-, -, -, he⟩ | ⟨-, -, -, he⟩
  · exact absurd (hb'.symm.trans hb) (by decide)
  · exact absurd (standard_wf.symm.trans hwf) (by decide)
  · exact ⟨_, he.trans (congrArg Res.outcome (compressStart_eq tPkware s))⟩
  · exact ⟨_, he⟩

theorem answered_step_of_idle (hb : s.busy = false) (h3 : s.cr.cmd ≠ 3) : Answered (step s) := by
  rw [step_idle hb]
  unfold idleFetch
  have hlt : s.cr.cmd.toNat < 4 := s.cr.cmd.isLt
  have hne : s.cr.cmd.toNat ≠ 3 := fun hc => h3 (BitVec.eq_of_toNat_eq hc)
  match s.cr.cmd.toNat, hlt, hne with
  | 0, _, _ => exact ⟨s, rfl⟩
  | 1, _, _ => exact answered_runCompress hb
  | 2, _, _ => exact ⟨_, exec_decompress hb⟩
  | _ + 3, hlt, hne => omega

/-- Settles O47: between commands CMD names a command that starts or fails; a running engine is in a state whose operation is total. -/
theorem stepAnswersANextState : Obligations.StepAnswersANextState := by
  intro s hs h3
  rcases hs.cases with hb | hc | hd
  · exact answered_step_of_idle hb h3
  · rw [step_cmp hc.running]
    exact hc.cmpStep_total.outcome
  · exact hd.answered_step

end Sys2Proof.Machine
end

section
/-! SUPPORT. Two statements fail at a status word no rule writes. The invariant says of `STATUS.SUCCESS` only that `STOP` is clear, so it
allows `BUSY` and `SUCCESS` together; a step of a running command that ends nothing keeps the word, and the transfers of a completed
command are then asked of one that goes on. -/

namespace Sys2Proof.Machine

/-- Between commands, with `WSIZE_CFG` = 4, an input of one byte and room for one byte of output. -/
def oneByteOperands : State := { State.reset with cr := { cmd := 0, wsizeCfg := 4, argInLen := 1, argOutCap := 1, status := 0 } }

/-- The state with `BUSY` and `SUCCESS` both set. -/
def State.busySuccess (s : State) : State := { s with cr := { s.cr with status := 0x05 } }

theorem bounded_oneByteOperands : Bounded standard oneByteOperands where
  memories := { memoriesOk_reset with }
  widths := { widthsOk_reset with argInLen := by decide, argOutCap := by decide }

theorem cmpBusy_busySuccess : CmpBusy standard (oneByteOperands.cmpStarted tPkware).busySuccess := by
  have h : CmpBusy standard (oneByteOperands.cmpStarted tPkware) := CmpBusy.started bounded_oneByteOperands (by decide)
  exact {
    bounded := ⟨{ h.bounded.memories with }, { h.bounded.widths with }⟩
    running := ⟨by decide, rfl⟩
    cmp := { h.cmp with writer := { h.cmp.writer with } } }

theorem decBusy_busySuccess : DecBusy standard (initDec (oneByteOperands.startCommand 2)).busySuccess := by
  have h : DecBusy standard (initDec (oneByteOperands.startCommand 2)) := DecBusy.init bounded_oneByteOperands
  exact {
    bounded := ⟨{ h.bounded.memories with }, { h.bounded.widths with }⟩
    running := ⟨by decide, rfl⟩
    dec := { h.dec with
      reader := { h.dec.reader with }
      tables := fun hc => absurd rfl hc } }

/-- Refutes O53: CMP just started, with `BUSY` and `SUCCESS` set and `ARG_OUT_CAP` = 1. STAGE pulls the one byte and keeps `STATUS`, so
the third clause asks for a push of one byte, and there has been none. -/
theorem not_compressComputesTheStream : ¬ Obligations.CompressComputesTheStream := by
  rintro ⟨-, -, h⟩
  have hb := cmpBusy_busySuccess
  have hx : CmpTransfers (oneByteOperands.cmpStarted tPkware).busySuccess := ⟨rfl, fun _ => rfl, rfl, rfl⟩
  have hst := step_cmp hb.running
  rw [show cmpStep standard (oneByteOperands.cmpStarted tPkware).busySuccess = stage _ from rfl, stage_eq rfl] at hst
  obtain ⟨-, hpush⟩ := (h _ _ hb.inv hb.running hx hst).2 (by decide)
  have hpush : ([] : List Nat) = archCompressPushes 1 := hpush
  exact absurd hpush (by decide)

/-- Refutes O54: DEC just started, with `BUSY` and `SUCCESS` set and `ARG_OUT_CAP` = 1. HDR0 takes the one byte and keeps `STATUS`, so the
third clause asks for a push of one byte, and there has been none. -/
theorem not_decompressComputesTheFunction : ¬ Obligations.DecompressComputesTheFunction := by
  rintro ⟨-, -, h⟩
  have hb := decBusy_busySuccess
  have hx : DecTransfers (initDec (oneByteOperands.startCommand 2)).busySuccess := ⟨rfl, fun hc => absurd rfl hc, rfl, rfl⟩
  obtain ⟨-, hpush⟩ := (h _ _ hb.inv hb.running hx rfl).2 (by decide)
  have hpush : ([] : List Nat) = archDecompressPushes 1 := hpush
  exact absurd hpush (by decide)

end Sys2Proof.Machine
end

section
/-! SUPPORT. The fields of a bit string as the decoder takes them (R12, R114, R153): a field is taken exactly where its bits stand
first, and the next 8 bits begin with every shorter field. -/

namespace Sys2Proof.Machine

/-- The first `k` bits are the residue of the whole. -/
theorem natOfBits_take (bits : List Bool) (k : Nat) : natOfBits (bits.take k) = natOfBits bits % 2 ^ k := by
  have h := natOfBits_take_bitsOfNat (natOfBits_lt bits) k
  rwa [bitsOfNat_natOfBits] at h

/-- The next 8 bits begin with the next `k` of them. -/
theorem lowbits_peekBits {k : Nat} (hk : k ≤ 8) (bits : List Bool) : lowbits (peekBits 8 bits) k = natOfBits (bits.take k) := by
  unfold lowbits peekBits
  rw [← natOfBits_take, List.take_take, Nat.min_eq_left hk]

theorem natOfBits_take_lt (k : Nat) (bits : List Bool) : natOfBits (bits.take k) < 2 ^ k :=
  (natOfBits_lt _).trans_le (Nat.pow_le_pow_right (by decide) (List.length_take_le k bits))

theorem peekBits_lt (bits : List Bool) : peekBits 8 bits < 256 := natOfBits_take_lt 8 bits

theorem bitsOfNat_natOfBits_take {k : Nat} {bits : List Bool} (hk : k ≤ bits.length) :
    bitsOfNat k (natOfBits (bits.take k)) = bits.take k := by
  have h := bitsOfNat_natOfBits (bits.take k)
  rwa [List.length_take, Nat.min_eq_left hk] at h

/-- A field of `k` bits is taken exactly where it stands first. -/
theorem takeBits_eq_some_iff {k v : Nat} {bits rest : List Bool} :
    takeBits k bits = some (v, rest) ↔ v < 2 ^ k ∧ bits = bitsOfNat k v ++ rest := by
  constructor
  · intro h
    obtain ⟨hk, rfl, rfl⟩ := takeBits_eq_some.1 h
    rw [bitsOfNat_natOfBits_take hk, List.take_append_drop]
    exact ⟨natOfBits_take_lt k bits, rfl⟩
  · rintro ⟨hv, rfl⟩
    rw [takeBits_append, Nat.mod_eq_of_lt hv]

theorem takeBits_eq_none {k : Nat} {bits : List Bool} (h : takeBits k bits = none) : bits.length < k := by
  unfold takeBits at h
  split_ifs at h with hk
  exact hk

/-! ### Header bytes, literals and commands (R101, R102, R104, R116) -/

theorem decodeByte_eq_ok {mk : Byte → Instr} {bits rest : List Bool} {i : Instr} :
    decodeByte mk bits = .ok (i, rest) ↔ ∃ b : Byte, i = mk b ∧ bits = bitsOfNat 8 b.toNat ++ rest := by
  unfold decodeByte
  constructor
  · intro h
    split at h
    · cases h
    · next v r hv =>
      cases h
      obtain ⟨hlt, rfl⟩ := takeBits_eq_some_iff.1 hv
      exact ⟨_, rfl, by rw [BitVec.toNat_ofNat, Nat.mod_eq_of_lt hlt]⟩
  · rintro ⟨b, rfl, rfl⟩
    rw [takeBits_append, Nat.mod_eq_of_lt b.isLt]
    simp

theorem decodeByte_eq_error {mk : Byte → Instr} {bits : List Bool} {e : Reject} (h : decodeByte mk bits = .error e) :
    e = .starved ∧ bits.length < 8 := by
  unfold decodeByte at h
  split at h
  · next hn =>
    cases h
    exact ⟨rfl, takeBits_eq_none hn⟩
  · cases h

theorem decodeCommand_eq_ok {bits rest : List Bool} {i : Instr} : decodeCommand bits = .ok (i, rest) ↔
    i = .compress ∧ bits = bitsOfNat 2 1 ++ rest ∨ i = .decompress ∧ bits = bitsOfNat 2 2 ++ rest := by
  unfold decodeCommand
  constructor
  · intro h
    split at h
    · cases h
    · next v r hv =>
      have hbits := (takeBits_eq_some_iff.1 hv).2
      split at h <;> cases h
      · exact .inl ⟨rfl, hbits⟩
      · exact .inr ⟨rfl, hbits⟩
  · rintro (⟨rfl, rfl⟩ | ⟨rfl, rfl⟩) <;> rw [takeBits_append] <;> rfl

end Sys2Proof.Machine
end

section
/-! SUPPORT. The class codes of well-formed tables (R172): every 8-bit pattern begins with the code of one class and of no other,
so the class of a pattern is the class whose code stands there. -/

namespace Sys2Proof.Machine

open Config (classesMatching)

theorem classesMatching_cons (n c : Nat) (ns cs : List Nat) (x : Nat) :
    classesMatching (n :: ns) (c :: cs) x = (if lowbits x n = c then 1 else 0) + classesMatching ns cs x := by
  unfold classesMatching lowbits
  rw [List.zip_cons_cons, List.filter_cons]
  by_cases h : x % 2 ^ n = c
  · rw [if_pos (beq_iff_eq.2 h), if_pos h, List.length_cons, Nat.add_comm]
  · rw [if_neg (mt beq_iff_eq.1 h), if_neg h, Nat.zero_add]

/-- A pattern no class is found for begins with no code. -/
theorem classesMatching_of_classOf_none {x : Nat} (bits : List Nat) : ∀ codes i, classOf bits codes x i = none →
    classesMatching bits codes x = 0 := by
  induction bits with
  | nil => intro codes i _; rfl
  | cons n ns ih =>
    intro codes i h
    cases codes with
    | nil => rfl
    | cons c cs =>
      rw [classOf] at h
      split_ifs at h with hx
      rw [classesMatching_cons, if_neg hx, ih cs (i + 1) h]

/-- The class found for a pattern is one whose code it begins with. -/
theorem exists_of_classOf {x k : Nat} (bits : List Nat) : ∀ codes i, classOf bits codes x i = some k →
    ∃ c, k = i + c ∧ c < bits.length ∧ lowbits x (bits.getD c 0) = codes.getD c 0 := by
  induction bits with
  | nil => intro codes i h; cases h
  | cons n ns ih =>
    intro codes i h
    cases codes with
    | nil => cases h
    | cons d ds =>
      rw [classOf] at h
      split_ifs at h with hx
      · exact ⟨0, (Option.some.inj h).symm, Nat.succ_pos _, hx⟩
      · obtain ⟨c, rfl, hc, hlow⟩ := ih ds (i + 1) h
        exact ⟨c + 1, by omega, Nat.succ_lt_succ hc, hlow⟩

/-- A pattern that begins with a code counts it. -/
theorem classesMatching_pos {x : Nat} (bits : List Nat) : ∀ codes c, c < bits.length → c < codes.length →
    lowbits x (bits.getD c 0) = codes.getD c 0 → 0 < classesMatching bits codes x := by
  induction bits with
  | nil => intro codes c h; exact absurd h (Nat.not_lt_zero c)
  | cons n ns ih =>
    intro codes c h1 h2 hx
    cases codes with
    | nil => exact absurd h2 (Nat.not_lt_zero c)
    | cons d ds =>
      rw [classesMatching_cons]
      cases c with
      | zero =>
        have hx : lowbits x n = d := hx
        rw [if_pos hx]
        omega
      | succ c => exact Nat.add_pos_right _ (ih ds c (Nat.lt_of_succ_lt_succ h1) (Nat.lt_of_succ_lt_succ h2) hx)

/-- Where a pattern begins with one code only, the class of that code is the one found. -/
theorem classOf_of_lowbits {x : Nat} (bits : List Nat) : ∀ codes c i, c < bits.length → c < codes.length →
    lowbits x (bits.getD c 0) = codes.getD c 0 → classesMatching bits codes x = 1 → classOf bits codes x i = some (i + c) := by
  induction bits with
  | nil => intro codes c i h; exact absurd h (Nat.not_lt_zero c)
  | cons n ns ih =>
    intro codes c i h1 h2 hx hone
    cases codes with
    | nil => exact absurd h2 (Nat.not_lt_zero c)
    | cons d ds =>
      rw [classesMatching_cons] at hone
      rw [classOf]
      cases c with
      | zero => exact if_pos hx
      | succ c =>
        have h1 := Nat.lt_of_succ_lt_succ h1
        have h2 := Nat.lt_of_succ_lt_succ h2
        have hpos := classesMatching_pos ns ds c h1 h2 hx
        have hd : ¬ lowbits x n = d := by
          intro hd
          rw [if_pos hd] at hone
          omega
        rw [if_neg hd, Nat.zero_add] at hone
        rw [if_neg hd, ih ds c (i + 1) h1 h2 hx hone, Nat.add_right_comm, Nat.add_assoc]

/-- The codes of `n` classes that meet W1 to W3 of R172. -/
structure ClassCode (n : Nat) (bits codes : List Nat) : Prop where
  bitsLength  : bits.length = n
  codesLength : codes.length = n
  width       : ∀ c < n, 1 ≤ bits.getD c 0 ∧ bits.getD c 0 ≤ 8
  fits        : ∀ c, codes.getD c 0 < 2 ^ bits.getD c 0
  complete    : ∀ x < 256, classesMatching bits codes x = 1

section ClassCode

variable {n c x : Nat} {bits codes : List Nat} (h : ClassCode n bits codes)
include h

/-- The class of a pattern is the one whose code it begins with. -/
theorem ClassCode.classOf_eq_some (hx : x < 256) :
    classOf bits codes x 0 = some c ↔ c < n ∧ lowbits x (bits.getD c 0) = codes.getD c 0 := by
  constructor
  · intro hc
    obtain ⟨d, hd, hlt, hlow⟩ := exists_of_classOf bits codes 0 hc
    obtain rfl : c = d := hd.trans (Nat.zero_add d)
    exact ⟨h.bitsLength ▸ hlt, hlow⟩
  · rintro ⟨hc, hlow⟩
    rw [classOf_of_lowbits bits codes c 0 (h.bitsLength ▸ hc) (h.codesLength ▸ hc) hlow (h.complete x hx), Nat.zero_add]

theorem ClassCode.classOf_ne_none (hx : x < 256) : classOf bits codes x 0 ≠ none := fun hn =>
  absurd (h.complete x hx) (by rw [classesMatching_of_classOf_none bits codes 0 hn]; decide)

/-- The class of the next 8 bits is that of the code that stands there (R114). -/
theorem ClassCode.classOf_append (hc : c < n) (rest : List Bool) :
    classOf bits codes (peekBits 8 (bitsOfNat (bits.getD c 0) (codes.getD c 0) ++ rest)) 0 = some c := by
  refine (h.classOf_eq_some (peekBits_lt _)).2 ⟨hc, ?_⟩
  rw [lowbits_peekBits (h.width c hc).2, List.take_left' (length_bitsOfNat _ _), natOfBits_bitsOfNat, Nat.mod_eq_of_lt (h.fits c)]

/-- A bit string that has as many bits begins with the code of its class. -/
theorem ClassCode.eq_append_of_classOf {s : List Bool} (hs : classOf bits codes (peekBits 8 s) 0 = some c)
    (hlen : bits.getD c 0 ≤ s.length) : c < n ∧ s = bitsOfNat (bits.getD c 0) (codes.getD c 0) ++ s.drop (bits.getD c 0) := by
  obtain ⟨hc, hcode⟩ := (h.classOf_eq_some (peekBits_lt s)).1 hs
  rw [lowbits_peekBits (h.width c hc).2] at hcode
  exact ⟨hc, by rw [← hcode, bitsOfNat_natOfBits_take hlen, List.take_append_drop]⟩

end ClassCode

end Sys2Proof.Machine
end

section
/-! SUPPORT. What well-formed code tables give the decoder (R172): the class codes, and the tiling of the length symbols by the
classes, of which the last ends with symbol 517. -/

namespace Sys2Proof.Machine

/-- The conditions of R172 the decoder rests on, beside those of the encoder. -/
structure DecoderTables (T : Config.CodeTables) : Prop extends EncoderTables T where
  lenClasses  : ClassCode 16 T.lenBits T.lenCode
  distClasses : ClassCode 64 T.distBits T.distCode
  extraWidth  : ∀ c, lenExtra T c ≤ 8

/-- The parts of `Config.CodeTables.wf` that speak of one class code. -/
theorem classCode_of_wf {n : Nat} {bits codes : List Nat} (hb : bits.length = n) (hc : codes.length = n)
    (hw : ∀ x ∈ bits, 1 ≤ x ∧ x ≤ 8) (hf : ∀ p ∈ bits.zip codes, p.2 < 2 ^ p.1)
    (hcomplete : Config.completeCode bits codes = true) :
    ClassCode n bits codes where
  bitsLength := hb
  codesLength := hc
  width c hlt := by
    have hlt : c < bits.length := hb ▸ hlt
    rw [List.getD_eq_getElem _ _ hlt]
    exact hw _ (List.getElem_mem hlt)
  fits := getD_of_forall_zip (p := fun n c => c < 2 ^ n) (hb.trans hc.symm) (by decide) hf
  complete x hx := beq_iff_eq.1 (List.all_eq_true.1 hcomplete x (List.mem_range.2 hx))

theorem decoderTables_of_wf {T : Config.CodeTables} (h : T.wf = true) : DecoderTables T := by
  have henc := encoderTables_of_wf h
  simp only [Config.CodeTables.wf, Bool.and_eq_true, beq_iff_eq, List.all_eq_true, decide_eq_true_eq, and_assoc] at h
  obtain ⟨hlb, hlc, -, -, hdb, hdc, hlw, hdw, hle, hlf, hdf, hlcomplete, hdcomplete, -, -⟩ := h
  exact { henc with
    lenClasses := classCode_of_wf hlb hlc hlw hlf hlcomplete
    distClasses := classCode_of_wf hdb hdc hdw hdf hdcomplete
    extraWidth := getD_le_of_forall_le hle }

theorem DecoderTables.lenClass_append {T : Config.CodeTables} (h : DecoderTables T) {c : Nat} (hc : c < 16) (rest : List Bool) :
    lenClass T (peekBits 8 (bitsOfNat (lenBits T c) (lenCode T c) ++ rest)) = some c := h.lenClasses.classOf_append hc rest

theorem DecoderTables.distClass_append {T : Config.CodeTables} (h : DecoderTables T) {c : Nat} (hc : c < 64) (rest : List Bool) :
    distClass T (peekBits 8 (bitsOfNat (distBits T c) (distCode T c) ++ rest)) = some c := h.distClasses.classOf_append hc rest

/-! ### The symbols of the classes (R106, R172 W4) -/

theorem tiles_cons {b e a : Nat} {bs es : List Nat} :
    Config.tiles (b :: bs) (e :: es) a = true ↔ b = a ∧ Config.tiles bs es (a + 2 ^ e) = true := by
  rw [Config.tiles, Bool.and_eq_true, beq_iff_eq]

theorem le_of_tiles (bs : List Nat) : ∀ es a, Config.tiles bs es a = true → a ≤ 518 := by
  induction bs with
  | nil =>
    intro es a h
    cases es with
    | nil => exact (beq_iff_eq.1 h).le
    | cons e es => cases h
  | cons b bs ih =>
    intro es a h
    cases es with
    | nil => cases h
    | cons e es => exact (Nat.le_add_right _ _).trans (ih es _ (tiles_cons.1 h).2)

/-- The symbols of a class of a tiling lie between the start of the tiling and 517, and belong to no class before it. -/
theorem symClass_of_tiles (bs : List Nat) : ∀ es a c e i, Config.tiles bs es a = true → c < bs.length →
    e < 2 ^ es.getD c 0 → a ≤ bs.getD c 0 + e ∧ bs.getD c 0 + e < 518 ∧ symClass bs es (bs.getD c 0 + e) i = i + c := by
  induction bs with
  | nil => intro es a c e i _ h; exact absurd h (Nat.not_lt_zero c)
  | cons b bs ih =>
    intro es a c e i h hc he
    cases es with
    | nil => cases h
    | cons x es =>
      obtain ⟨rfl, ht⟩ := tiles_cons.1 h
      rw [symClass]
      cases c with
      | zero =>
        have hle := le_of_tiles bs es _ ht
        have he : e < 2 ^ x := he
        rw [List.getD_cons_zero, if_pos (by omega)]
        exact ⟨by omega, by omega, rfl⟩
      | succ c =>
        rw [List.getD_cons_succ] at he ⊢
        obtain ⟨hlo, hhi, hsym⟩ := ih es _ c e (i + 1) ht (Nat.lt_of_succ_lt_succ hc) he
        have hpos := Nat.two_pow_pos x
        rw [if_neg (by omega), hsym]
        exact ⟨by omega, hhi, by omega⟩

/-- The last class of a tiling ends with symbol 517. -/
theorem last_of_tiles (bs : List Nat) : ∀ b es a, Config.tiles (b :: bs) es a = true →
    (b :: bs).getD bs.length 0 + 2 ^ es.getD bs.length 0 = 518 := by
  induction bs with
  | nil =>
    intro b es a h
    match es with
    | [] => cases h
    | e :: [] =>
      obtain ⟨rfl, h⟩ := tiles_cons.1 h
      exact beq_iff_eq.1 h
    | e :: f :: es => cases (tiles_cons.1 h).2
  | cons c bs ih =>
    intro b es a h
    cases es with
    | nil => cases h
    | cons e es => exact ih c es _ (tiles_cons.1 h).2

variable {T : Config.CodeTables} {c e : Nat}

/-- The symbol of a class and extra value is one of the 518, and the class found for it is that class. -/
theorem EncoderTables.lenClassOfSym (h : EncoderTables T) (hc : c < 16) (he : e < 2 ^ lenExtra T c) :
    lenBase T c + e < 518 ∧ lenClassOfSym T (lenBase T c + e) = c := by
  obtain ⟨hlen, -, htiles⟩ := h.tiles
  obtain ⟨-, hhi, hsym⟩ := symClass_of_tiles T.lenBase T.lenExtra 0 c e 0 htiles (hlen ▸ hc) he
  exact ⟨hhi, hsym.trans (Nat.zero_add c)⟩

/-- Symbol 517 is the last of class 15 and of no other class (R106, R108). -/
theorem EncoderTables.class_of_end (h : EncoderTables T) (hc : c < 16) (he : e < 2 ^ lenExtra T c) (hend : lenBase T c + e = 517) :
    c = 15 ∧ e = 517 - lenBase T 15 := by
  have hsym := (h.lenClassOfSym hc he).2
  rw [hend, h.lenClassOfSym_end] at hsym
  subst hsym
  exact ⟨rfl, by omega⟩

/-- END has a codeword: its symbol is one of class 15 (R108). -/
theorem EncoderTables.end_mem_lastClass (h : EncoderTables T) :
    lenBase T 15 + (517 - lenBase T 15) = 517 ∧ 517 - lenBase T 15 < 2 ^ lenExtra T 15 := by
  obtain ⟨hlen, -, htiles⟩ := h.tiles
  have hlast : lenBase T 15 + 2 ^ lenExtra T 15 = 518 := by
    unfold lenBase lenExtra
    cases hb : T.lenBase with
    | nil => rw [hb] at hlen; cases hlen
    | cons b bs =>
      rw [hb] at hlen htiles
      have hlast := last_of_tiles bs b T.lenExtra 0 htiles
      rwa [Nat.succ.inj hlen] at hlast
  have hpos := Nat.two_pow_pos (lenExtra T 15)
  omega

end Sys2Proof.Machine
end

section
/-! SUPPORT. The rows of the opcode table by their class: which row a length class and its extra value, or an offset class and its
low field, name, and where that row stands (R106, R108, R111, R119). -/

namespace Sys2Proof.Machine

variable {T : Config.CodeTables} {i : Instr} {c e : Nat} {low : Low}

/-- An instruction is a literal, a length row or END, an offset row, a header byte or a command. -/
theorem instr_kinds (T : Config.CodeTables) (i : Instr) :
    (∃ b, i = .lit b) ∨ (∃ c e, i.lenParts T = some (c, e)) ∨ (∃ c low, i.distParts = some (c, low)) ∨
      (∃ b, i = .hdr0 b) ∨ (∃ w, i = .hdr1 w) ∨ i = .compress ∨ i = .decompress := by
  cases i <;> simp [Instr.lenParts, Instr.distParts]

/-- A length row: its class and extra value name it, unless they are those of END. -/
theorem row_of_lenParts (h : i.lenParts T = some (c, e)) (hi : i ≠ .endOfStream) :
    c < 16 ∧ i.wf T = lengthRowWf T c e ∧ (lenBase T c + e ≠ 517 → lenInstr T c e = some i) := by
  cases i <;> simp only [Instr.lenParts, reduceCtorEq, Option.some.injEq, Prod.mk.injEq, ne_eq, not_true_eq_false] at h hi <;>
    (obtain ⟨rfl, rfl⟩ := h
     exact ⟨by decide, rfl, fun hne => by simp [lenInstr, hne]⟩)

theorem ctx_of_lenParts (h : i.lenParts T = some (c, e)) : i.ctx = .token := by
  cases i <;> simp only [Instr.lenParts, reduceCtorEq] at h <;> rfl

theorem exec_of_lenParts (h : i.lenParts T = some (c, e)) (hi : i ≠ .endOfStream) (s : State) :
    exec i s = setCopyLength standard c e s := by
  rw [exec_eq_execWith]
  cases i <;> simp only [Instr.lenParts, reduceCtorEq, Option.some.injEq, Prod.mk.injEq, ne_eq, not_true_eq_false] at h hi <;>
    (obtain ⟨rfl, rfl⟩ := h; rfl)

/-- An offset row: its class and low field name it. -/
theorem row_of_distParts (h : i.distParts = some (c, low)) : c < 64 ∧ distInstr c low = some i := by
  cases i <;> simp only [Instr.distParts, reduceCtorEq, Option.some.injEq, Prod.mk.injEq] at h <;>
    (obtain ⟨rfl, rfl⟩ := h
     exact ⟨by decide, rfl⟩)

theorem ctx_of_distParts (h : i.distParts = some (c, low)) : i.ctx = .offset low.width := by
  cases i <;> simp only [Instr.distParts, reduceCtorEq, Option.some.injEq, Prod.mk.injEq] at h <;>
    (obtain ⟨rfl, rfl⟩ := h; rfl)

theorem distParts_of_distInstr (h : distInstr c low = some i) : i.distParts = some (c, low) := by
  unfold distInstr at h
  split at h <;> cases h <;> rfl

/-- A low field has the width and the value it was made of (R110). -/
theorem width_val_of_lowOf {lw v : Nat} (hv : v < 2 ^ lw) (h : lowOf lw v = some low) : low.width = lw ∧ low.val = v := by
  unfold lowOf at h
  split at h <;> cases h <;> exact ⟨rfl, (BitVec.toNat_ofNat _ _).trans (Nat.mod_eq_of_lt hv)⟩

/-- The row that a class and an extra value other than those of END name is the row of that class. -/
theorem lenParts_of_lenInstr_of_ne (hne : lenBase T c + e ≠ 517) (h : lenInstr T c e = some i) :
    i.lenParts T = some (c, e % 256) := by
  unfold lenInstr at h
  rw [if_neg hne] at h
  split at h <;> cases h <;> rfl

/-- The length rows the opcode table has an encoding for: the extra value fits its field, and symbol 517 is END (R105, R108). -/
def LenEncodable (T : Config.CodeTables) (i : Instr) : Prop :=
  ∀ c e, i.lenParts T = some (c, e) → e < 2 ^ lenExtra T c ∧ (lenBase T c + e = 517 → i = .endOfStream)

theorem lenEncodable_of_wf (h : EncoderTables T) (hi : i.wf T = true) : LenEncodable T i := by
  intro c e hp
  by_cases hend : i = .endOfStream
  · subst hend
    obtain ⟨rfl, rfl⟩ := Prod.mk.inj (Option.some.inj hp)
    exact ⟨h.end_mem_lastClass.2, fun _ => rfl⟩
  · obtain ⟨-, hwf, -⟩ := row_of_lenParts hp hend
    rw [hwf, lengthRowWf, Bool.and_eq_true, decide_eq_true_eq, bne_iff_ne] at hi
    exact ⟨hi.1, fun h517 => absurd h517 hi.2⟩

/-- Each row that has an encoding is the one its class and extra value name. -/
theorem lenInstr_of_lenParts (h : EncoderTables T) (hi : LenEncodable T i) (hp : i.lenParts T = some (c, e)) :
    c < 16 ∧ e < 2 ^ lenExtra T c ∧ lenInstr T c e = some i := by
  obtain ⟨he, h517⟩ := hi c e hp
  by_cases hend : i = .endOfStream
  · subst hend
    obtain ⟨rfl, rfl⟩ := Prod.mk.inj (Option.some.inj hp)
    exact ⟨by decide, he, if_pos h.end_mem_lastClass.1⟩
  · obtain ⟨hc, -, hrow⟩ := row_of_lenParts hp hend
    exact ⟨hc, he, hrow (mt h517 hend)⟩

/-- The row that a class and an extra value of its field name is the one of that class and extra value. -/
theorem lenParts_of_lenInstr_eq_some (h : DecoderTables T) (hc : c < 16) (he : e < 2 ^ lenExtra T c)
    (hi : lenInstr T c e = some i) : i.lenParts T = some (c, e) := by
  by_cases hne : lenBase T c + e = 517
  · obtain rfl : Instr.endOfStream = i := Option.some.inj ((if_pos hne).symm.trans hi)
    obtain ⟨rfl, rfl⟩ := h.class_of_end hc he hne
    rfl
  · have he8 : e < 2 ^ 8 := he.trans_le (Nat.pow_le_pow_right (by decide) (h.extraWidth c))
    exact Nat.mod_eq_of_lt he8 ▸ lenParts_of_lenInstr_of_ne hne hi

end Sys2Proof.Machine
end

section
/-! SUPPORT. When each part of the decoder answers: exactly on the encodings of its rows (R104 to R114). -/

namespace Sys2Proof.Machine

variable {T : Config.CodeTables} {i : Instr} {bits rest : List Bool}

/-- A length codeword decodes exactly to the row its class and extra value name (R105 to R108). -/
theorem decodeLength_iff (h : DecoderTables T) : decodeLength T bits = .ok (i, rest) ↔
    ∃ c e, c < 16 ∧ e < 2 ^ lenExtra T c ∧ lenInstr T c e = some i ∧ true :: bits = encodeLength T c e ++ rest := by
  constructor
  · intro hd
    obtain ⟨c, hclass, hlen, hext, hi, rfl⟩ := decodeLength_eq_ok hd
    obtain ⟨hc, hbits⟩ := h.lenClasses.eq_append_of_classOf hclass hlen
    refine ⟨c, _, hc, natOfBits_take_lt _ _, hi, ?_⟩
    rw [encodeLength, List.cons_append, List.append_assoc, bitsOfNat_natOfBits_take hext, List.take_append_drop]
    exact congrArg (true :: ·) hbits
  · rintro ⟨c, e, hc, he, hi, hbits⟩
    rw [encodeLength, List.cons_append, List.append_assoc] at hbits
    obtain rfl := (List.cons.inj hbits).2
    unfold decodeLength
    rw [h.lenClass_append hc]
    dsimp only
    rw [takeBits_append]
    dsimp only
    rw [takeBits_append, Nat.mod_eq_of_lt he]
    dsimp only
    rw [hi]

/-- What it takes for an offset row to decode: its class, its code and its low field. -/
theorem decodeOffset_eq_ok {lw : Nat} (h : decodeOffset T lw bits = .ok (i, rest)) :
    ∃ c v, distClass T (peekBits 8 bits) = some c ∧ distBits T c ≤ bits.length ∧
      takeBits lw (bits.drop (distBits T c)) = some (v, rest) ∧ (lowOf lw v).bind (distInstr c) = some i := by
  unfold decodeOffset at h
  split at h
  · cases h
  · next c hc =>
    split at h
    · cases h
    · next x r hr =>
      obtain ⟨hlen, -, rfl⟩ := takeBits_eq_some.1 hr
      split at h
      · cases h
      · next v r' hv =>
        split at h
        · cases h
        · next j hj =>
          cases h
          exact ⟨c, v, hc, hlen, hv, hj⟩

/-- An offset codeword decodes exactly to the row its class and low field name (R110 to R112). -/
theorem decodeOffset_iff (h : DecoderTables T) {lw : Nat} : decodeOffset T lw bits = .ok (i, rest) ↔
    ∃ c low, i.distParts = some (c, low) ∧ low.width = lw ∧ bits = encodeOffset T c low ++ rest := by
  constructor
  · intro hd
    obtain ⟨c, v, hclass, hlen, hv, hi⟩ := decodeOffset_eq_ok hd
    obtain ⟨-, hbits⟩ := h.distClasses.eq_append_of_classOf hclass hlen
    obtain ⟨hlt, hdrop⟩ := takeBits_eq_some_iff.1 hv
    obtain ⟨low, hlow, hrow⟩ := Option.bind_eq_some_iff.1 hi
    obtain ⟨rfl, rfl⟩ := width_val_of_lowOf hlt hlow
    refine ⟨c, low, distParts_of_distInstr hrow, rfl, ?_⟩
    rw [encodeOffset, List.append_assoc, ← hdrop]
    exact hbits
  · rintro ⟨c, low, hp, rfl, rfl⟩
    obtain ⟨hc, hi⟩ := row_of_distParts hp
    rw [encodeOffset, List.append_assoc]
    unfold decodeOffset
    rw [h.distClass_append hc]
    dsimp only
    rw [takeBits_append]
    dsimp only
    rw [takeBits_append, Nat.mod_eq_of_lt low.val_lt]
    dsimp only
    rw [lowOf_val, Option.bind_some, hi]

/-! ### Where the decoder answers no instruction (R113, R115) -/

theorem decodeLength_eq_error (h : DecoderTables T) {e : Reject} (hd : decodeLength T bits = .error e) :
    e = .starved ∧ bits.length < 15 := by
  unfold decodeLength at hd
  split at hd
  · next hn => exact absurd hn (h.lenClasses.classOf_ne_none (peekBits_lt bits))
  · next c hclass =>
    have hwidth := h.lenWidth c
    have hc := ((h.lenClasses.classOf_eq_some (peekBits_lt bits)).1 hclass).1
    split at hd
    · next hn =>
      cases hd
      have := takeBits_eq_none hn
      exact ⟨rfl, by omega⟩
    · next v r hr =>
      obtain ⟨-, hbits⟩ := takeBits_eq_some_iff.1 hr
      split at hd
      · next hn =>
        cases hd
        have := takeBits_eq_none hn
        exact ⟨rfl, by rw [hbits, List.length_append, length_bitsOfNat]; omega⟩
      · next x r' hx =>
        obtain ⟨j, hj⟩ := lenInstr_isSome T hc x
        rw [hj] at hd
        cases hd

theorem decodeToken_eq_error (h : DecoderTables T) {e : Reject} (hd : decodeToken T bits = .error e) :
    e = .starved ∧ bits.length < 16 := by
  unfold decodeToken at hd
  split at hd
  · cases hd
    exact ⟨rfl, by decide⟩
  · next r =>
    obtain ⟨he, hlt⟩ := decodeByte_eq_error hd
    exact ⟨he, by rw [List.length_cons]; omega⟩
  · next r =>
    obtain ⟨he, hlt⟩ := decodeLength_eq_error h hd
    exact ⟨he, by rw [List.length_cons]; omega⟩

theorem decodeOffset_eq_error (h : DecoderTables T) {lw : Nat} (hlw : lw ∈ [2, 4, 5, 6]) {e : Reject}
    (hd : decodeOffset T lw bits = .error e) : e = .starved ∧ bits.length < 8 + lw := by
  unfold decodeOffset at hd
  split at hd
  · next hn => exact absurd hn (h.distClasses.classOf_ne_none (peekBits_lt bits))
  · next c hclass =>
    have hc := ((h.distClasses.classOf_eq_some (peekBits_lt bits)).1 hclass).1
    have hwidth := (h.distBits c hc).2
    split at hd
    · next hn =>
      cases hd
      have := takeBits_eq_none hn
      exact ⟨rfl, by omega⟩
    · next v r hr =>
      obtain ⟨-, hbits⟩ := takeBits_eq_some_iff.1 hr
      split at hd
      · next hn =>
        cases hd
        have := takeBits_eq_none hn
        exact ⟨rfl, by rw [hbits, List.length_append, length_bitsOfNat]; omega⟩
      · next x r' hx =>
        obtain ⟨low, hlow⟩ := lowOf_isSome hlw x
        obtain ⟨j, hj⟩ := distInstr_isSome hc low
        rw [hlow, Option.bind_some, hj] at hd
        cases hd

end Sys2Proof.Machine
end

section
/-! SUPPORT. Decoder and encoder agree (R104 to R116, R119): each undoes the other, and only where the input ends is there nothing
to decode. -/

namespace Sys2Proof.Machine

variable {T : Config.CodeTables} {i : Instr} {bits rest : List Bool}

/-- A token decodes to a literal or to a length row, after its selector (R103, R104). -/
theorem encode_of_decodeToken (h : DecoderTables T) (hd : decodeToken T bits = .ok (i, rest)) :
    bits = encode T i ++ rest ∧ i.ctx = .token := by
  unfold decodeToken at hd
  split at hd
  · cases hd
  · next r =>
    obtain ⟨b, rfl, rfl⟩ := decodeByte_eq_ok.1 hd
    exact ⟨rfl, rfl⟩
  · next r =>
    obtain ⟨c, e, hc, he, hi, hbits⟩ := (decodeLength_iff h).1 hd
    have hp := lenParts_of_lenInstr_eq_some h hc he hi
    exact ⟨hbits.trans (by rw [encode_of_lenParts hp]), ctx_of_lenParts hp⟩

/-- Settles O2: place by place, what decodes is an encoding of its place. -/
theorem encodeOfDecodedBits : Obligations.EncodeOfDecodedBits := by
  intro T ctx bits i rest hT hd
  have h := decoderTables_of_wf hT
  cases ctx with
  | command =>
    rcases decodeCommand_eq_ok.1 hd with ⟨rfl, rfl⟩ | ⟨rfl, rfl⟩ <;> exact ⟨rfl, rfl⟩
  | header0 =>
    obtain ⟨b, rfl, rfl⟩ := decodeByte_eq_ok.1 hd
    exact ⟨rfl, rfl⟩
  | header1 =>
    obtain ⟨w, rfl, rfl⟩ := decodeByte_eq_ok.1 hd
    exact ⟨rfl, rfl⟩
  | token => exact encode_of_decodeToken h hd
  | offset lw =>
    obtain ⟨c, low, hp, rfl, rfl⟩ := (decodeOffset_iff h).1 hd
    exact ⟨by rw [encode_of_distParts hp], ctx_of_distParts hp⟩

/-- A length row decodes in its place, at a token, to itself. -/
theorem decode_encode_of_lenParts (h : DecoderTables T) (hi : LenEncodable T i) {c e : Nat} (hp : i.lenParts T = some (c, e))
    (rest : List Bool) : decode T .token (encode T i ++ rest) = .ok (i, rest) := by
  obtain ⟨hc, he, hrow⟩ := lenInstr_of_lenParts h.toEncoderTables hi hp
  rw [encode_of_lenParts hp]
  exact (decodeLength_iff h).2 ⟨c, e, hc, he, hrow, rfl⟩

/-- Settles O1: kind by kind, each encoding decodes in its place. -/
theorem decodeOfEncodedInstruction : Obligations.DecodeOfEncodedInstruction := by
  intro T i rest hT hi
  have h := decoderTables_of_wf hT
  rcases instr_kinds T i with ⟨b, rfl⟩ | ⟨c, e, hp⟩ | ⟨c, low, hp⟩ | ⟨b, rfl⟩ | ⟨w, rfl⟩ | rfl | rfl
  · exact decodeByte_eq_ok.2 ⟨b, rfl, rfl⟩
  · rw [ctx_of_lenParts hp]
    exact decode_encode_of_lenParts h (lenEncodable_of_wf h.toEncoderTables hi) hp rest
  · rw [ctx_of_distParts hp, encode_of_distParts hp]
    exact (decodeOffset_iff h).2 ⟨c, low, hp, rfl, rfl⟩
  · exact decodeByte_eq_ok.2 ⟨b, rfl, rfl⟩
  · exact decodeByte_eq_ok.2 ⟨w, rfl, rfl⟩
  · exact (decodeCommand_eq_ok (bits := bitsOfNat 2 1 ++ rest)).2 (.inl ⟨rfl, rfl⟩)
  · exact (decodeCommand_eq_ok (bits := bitsOfNat 2 2 ++ rest)).2 (.inr ⟨rfl, rfl⟩)

/-- Settles O3: a class fits every pattern, so only a missing bit stops the decoder. -/
theorem everyTokenBitStringDecodes : Obligations.EveryTokenBitStringDecodes := by
  intro T hT
  have h := decoderTables_of_wf hT
  exact ⟨fun _ _ hd => decodeToken_eq_error h hd, fun lw hlw _ _ hd => decodeOffset_eq_error h (by simpa using hlw) hd⟩

/-- Settles O4: the decoder run on each word. -/
theorem specWordsDecode : Obligations.SpecWordsDecode := ⟨rfl, rfl, rfl, rfl, rfl, rfl, rfl, rfl⟩

end Sys2Proof.Machine
end

section
/-! SUPPORT. The codeword table holds the encodings (R107 to R109, R173, R174), and emitting a token or END appends its bits
(R175 to R177). -/

namespace Sys2Proof.Machine

variable {T : Config.CodeTables}

theorem length_tableOf (f : Nat → Nat) (n : Nat) : ∀ x, (tableOf f x n).length = n := by
  induction n with
  | zero => intro x; rfl
  | succ n ih => intro x; rw [tableOf, List.length_cons, ih]

theorem length_builtCwv : (builtCwv T).length = 774 := by
  unfold builtCwv
  exact length_tableOf _ _ _

theorem length_builtCwb : (builtCwb T).length = 774 := by
  unfold builtCwb
  exact length_tableOf _ _ _

theorem bitsOfNat_cw_lit (b : Byte) :
    bitsOfNat ((builtCwb T).getD b.toNat 0) ((builtCwv T).getD b.toNat 0) = encode T (.lit b) := by
  have hb := b.isLt
  rw [getD_builtCwb (by omega), getD_builtCwv (by omega), cwWidth, cwValue, if_pos hb, if_pos hb, bitsOfNat_litCw]

/-- The cell of a class and extra value: the symbol's class is found again, so the cell holds that class's codeword. -/
theorem bitsOfNat_cw_length (h : EncoderTables T) {c e : Nat} (hc : c < 16) (he : e < 2 ^ lenExtra T c) :
    bitsOfNat ((builtCwb T).getD (256 + lenBase T c + e) 0) ((builtCwv T).getD (256 + lenBase T c + e) 0) = encodeLength T c e := by
  obtain ⟨hsym, hclass⟩ := h.lenClassOfSym hc he
  have hy : ¬ 256 + (lenBase T c + e) < 256 := by omega
  rw [Nat.add_assoc, getD_builtCwb (by omega), getD_builtCwv (by omega), cwWidth, cwValue, if_neg hy, if_neg hy,
    Nat.add_sub_cancel_left, bitsOfNat_lenCw h, hclass, Nat.add_sub_cancel_left]

/-- Settles O7: a literal's cell is 9 bits of the byte shifted; a length symbol's is the codeword of its one class. -/
theorem codewordTableHoldsTheEncodings : Obligations.CodewordTableHoldsTheEncodings := by
  intro T hT
  have h := encoderTables_of_wf hT
  refine ⟨length_builtCwv, length_builtCwb, bitsOfNat_cw_lit, fun i c e hi hp => ?_⟩
  obtain ⟨hc, he, -⟩ := lenInstr_of_lenParts h (lenEncodable_of_wf h hi) hp
  rw [encode_of_lenParts hp, bitsOfNat_cw_length h hc he]

/-- A copy without an encoding is refused; a literal always has one (R176). -/
theorem emitToken_refused {tok : Token} {s : State} (h : tok.encodable s.hdr.wsize = false) :
    emitToken T tok s = .refuse .copyOperands := by
  cases tok with
  | lit b => cases h
  | copy len off =>
    have hc : ¬ copyEncodable len off s = true := Bool.not_eq_true _ ▸ h
    exact if_neg hc

/-- Settles O43: the writes of a token and of END, each appending its field. -/
theorem emittingAppendsTheToken : Obligations.EmittingAppendsTheToken := by
  intro T tok s hT
  have h := encoderTables_of_wf hT
  refine ⟨fun hw hout hs hl => ?_, emitToken_refused⟩
  have hwrote := Wrote.refl hw hout hs
  constructor
  · intro he
    obtain ⟨t, ht, hwt⟩ := hwrote.emitToken h hw hl he
    exact ⟨t, ht, hwt.frame, hwt.writerOk hw, hwt.packedBits⟩
  · obtain ⟨t, ht, hwt⟩ := hwrote.emitEnd h hw
    exact ⟨t, ht, hwt.frame, hwt.writerOk hw, hwt.packedBits⟩

end Sys2Proof.Machine
end

section
/-! SUPPORT. Fetching an offset row whose bits decode (R110 to R112, R181, R265): the fetch answers the decoded row, in a state just
after its bits; and the step between commands (R116, R293). -/

namespace Sys2Proof.Machine

variable {s : State} {i : Instr} {rest : List Bool}

theorem decoderTables_tPkware : DecoderTables tPkware := by
  have h := standard_wf
  simp only [Config.Params.wf, Bool.and_eq_true] at h
  exact decoderTables_of_wf h.1.1

/-- `DISTJ` of `T_PKWARE` at a pattern that begins with an offset code. -/
theorem getD_builtDistj {x c : Nat} (hx : x < 256) (h : distClass tPkware x = some c) : (builtDistj tPkware).getD x 0 = c := by
  unfold builtDistj
  rw [getD_buildJump (by decide) hx]
  exact congrArg (·.getD 0) h

theorem low_width_pos (low : Low) : 1 ≤ low.width := by
  cases low <;> simp [Low.width]

/-- A field of an instruction is consumed where it stands first. -/
theorem ReaderOk.consume_append (h : ReaderOk s) {k : Nat} (h1 : 1 ≤ k) (h8 : k ≤ 8) {v : Nat}
    (hbits : s.restBits = bitsOfNat k v ++ rest) :
    ∃ t, Machine.consume standard k s = .ok () t ∧ t.restBits = rest ∧ ReaderOk t ∧ SameButReader s t := by
  have hlen : k ≤ s.restBits.length := by
    rw [hbits, List.length_append, length_bitsOfNat]
    omega
  rcases h.consume standard h1 h8 with ⟨-, t, he, ht⟩ | ⟨hlt, -⟩
  · exact ⟨t, he, by rw [ht.rest, hbits, List.drop_left' (length_bitsOfNat k v)], ht.reader, ht.frame⟩
  · exact absurd hlen (Nat.not_le.2 hlt)

/-- A field of an instruction is read where it stands first. -/
theorem ReaderOk.readBits_append (h : ReaderOk s) {k : Nat} (h1 : 1 ≤ k) (h8 : k ≤ 8) {v : Nat} (hv : v < 2 ^ k)
    (hbits : s.restBits = bitsOfNat k v ++ rest) :
    ∃ t, Machine.readBits standard k s = .ok v t ∧ t.restBits = rest ∧ ReaderOk t ∧ SameButReader s t := by
  have hlen : k ≤ s.restBits.length := by
    rw [hbits, List.length_append, length_bitsOfNat]
    omega
  obtain ⟨t, he, ht⟩ := h.readBits standard h1 h8 hlen
  refine ⟨t, ?_, by rw [ht.rest, hbits, List.drop_left' (length_bitsOfNat k v)], ht.reader, ht.frame⟩
  rw [he, hbits, List.take_left' (length_bitsOfNat k v), natOfBits_bitsOfNat, Nat.mod_eq_of_lt hv]

/-- DECODE_OFF finds the class in `DISTJ`, takes its code, and reads the low field. -/
theorem ReaderOk.decodeOff (h : ReaderOk s) (hj : s.dec.distj = builtDistj tPkware) {len c : Nat} {low : Low} (hc : c < 64)
    (hw : low.width = lowWidth len s.hdr.wsize) (hbits : s.restBits = encodeOffset tPkware c low ++ rest) :
    ∃ t, Machine.decodeOff standard len s = .ok (c, low.val) t ∧ t.restBits = rest ∧ ReaderOk t ∧ SameButReader s t := by
  rw [encodeOffset, List.append_assoc] at hbits
  obtain ⟨hb1, hb8⟩ := distBits_tPkware c hc
  obtain ⟨t, hpeek, ht⟩ := h.peek (k := 8) (by decide) (Nat.le_refl 8)
  have hcell : t.dec.distj.getD (natOfBits (s.restBits.take 8)) 0 = c := by
    rw [ht.frame.distj, hj]
    refine getD_builtDistj (natOfBits_take_lt 8 _) ?_
    rw [hbits]
    exact decoderTables_tPkware.distClass_append hc _
  obtain ⟨u, hcons, hru, hu, hfu⟩ := ht.reader.consume_append hb1 hb8 (ht.rest.trans hbits)
  have hlw : low.width ≤ 8 := (Low.width_le low).trans (by decide)
  obtain ⟨v, hread, hrv, hv, hfv⟩ := hu.readBits_append (low_width_pos low) hlw low.val_lt hru
  refine ⟨v, ?_, hrv, hv, (ht.frame.trans hfu).trans hfv⟩
  unfold Machine.decodeOff
  rw [hpeek, Res.bind_ok]
  dsimp only
  rw [hcell, show distBits standard.tables c = distBits tPkware c from rfl, hcons, Res.bind_ok, (ht.frame.trans hfu).hdr, ← hw,
    hread, Res.bind_ok]

/-- The offset row that the bits decode to. -/
theorem ReaderOk.fetchOffset (h : ReaderOk s) (hj : s.dec.distj = builtDistj tPkware)
    (hd : decodeOffset tPkware (lowWidth s.dec.tLen s.hdr.wsize) s.restBits = .ok (i, rest)) :
    ∃ t, Machine.fetchOffset standard s = .ok i t ∧ t.restBits = rest ∧ ReaderOk t ∧ SameButReader s t := by
  obtain ⟨c, low, hp, hw, hbits⟩ := (decodeOffset_iff decoderTables_tPkware).1 hd
  obtain ⟨hc, hi⟩ := row_of_distParts hp
  obtain ⟨t, he, hrest, ht, hframe⟩ := h.decodeOff hj hc hw hbits
  have htLen : t.dec.tLen = s.dec.tLen := congrArg (·.dec.tLen) hframe
  refine ⟨t, ?_, hrest, ht, hframe⟩
  unfold Machine.fetchOffset
  rw [he, Res.bind_ok]
  dsimp only
  rw [htLen, hframe.hdr, ← hw, lowOf_val, Option.bind_some, hi]

/-- Settles O10: what the fetch takes is what the decoder takes. -/
theorem stepRunsTheDecodedOffset : Obligations.StepRunsTheDecodedOffset := by
  intro s i rest hs hr hj hd hoff hdec
  obtain ⟨t, ht, hrest, hok, hframe⟩ := hr.fetchOffset hj hdec
  refine ⟨t, step_of_decFetch hs ?_, hrest, hok, hframe⟩
  unfold decFetch
  rw [hd, hoff]
  exact congrArg Res.fetched ht

/-- The bits of `CMD` decode to the command whose number it holds, which the step between commands executes (R116, R293). -/
theorem step_of_decodeCommand (hb : s.busy = false) (hd : decodeCommand (bitsOfNat 2 s.cr.cmd.toNat) = .ok (i, [])) :
    step s = exec i s := by
  have hcmd : s.cr.cmd.toNat = natOfBits (bitsOfNat 2 s.cr.cmd.toNat) := by
    rw [natOfBits_bitsOfNat, Nat.mod_eq_of_lt s.cr.cmd.isLt]
  rw [step_idle hb, idleFetch]
  rcases decodeCommand_eq_ok.1 hd with ⟨rfl, hbits⟩ | ⟨rfl, hbits⟩ <;>
    (rw [hcmd, hbits]
     rfl)

/-- Settles O8: the step is the fetch and its execution; between commands the fetch reads `CMD` as the decoder does. -/
theorem stepRunsTheDecodedInstruction : Obligations.StepRunsTheDecodedInstruction := by
  refine ⟨fun s i t hf => ?_, fun s o hf => ?_, fun s i hb hd => step_of_decodeCommand hb hd⟩ <;>
    rw [step, hf]

end Sys2Proof.Machine
end

section
/-! SUPPORT. What the rows of a copy and HDR1 do (R106, R111, R262, R265, R266). -/

namespace Sys2Proof.Machine

/-- Settles O22: every length row is the length half of COPY for its class and extra value. -/
theorem lengthRowsAndEnd : Obligations.LengthRowsAndEnd :=
  ⟨fun _ _ _ s hp hi => exec_of_lenParts hp hi s, fun _ => rfl⟩

theorem offsetOf_eq_or (c : Nat) (low : Low) : offsetOf c low = (c <<< low.width) ||| low.val := by
  rw [← Nat.shiftLeft_add_eq_or_of_lt low.val_lt, Nat.shiftLeft_eq]
  rfl

theorem offsetOf_lt_classes {c : Nat} (hc : c < 64) (low : Low) : offsetOf c low < 64 * 2 ^ low.width := by
  have hv := low.val_lt
  have hle : (c + 1) * 2 ^ low.width ≤ 64 * 2 ^ low.width := Nat.mul_le_mul_right _ hc
  rw [Nat.succ_mul] at hle
  unfold offsetOf
  omega

/-- Settles O25: the class stands above the low field, and there are 64 classes and at most 6 low bits. -/
theorem offsetsStayBelowTheDictionarySize : Obligations.OffsetsStayBelowTheDictionarySize := by
  intro i c low hp
  have hc := (row_of_distParts hp).1
  exact ⟨offsetOf_eq_or c low, offsetOf_lt_classes hc low, Nat.le_of_lt_succ (offsetOf_lt hc low)⟩

variable {P : Config.Params} {s : State} {w : Byte}

theorem checkHeader_badLitmode (h0 : (loadHeader w s).hdr.litmode ≠ 0) :
    checkHeader P w s = .next ((loadHeader w s).fail P .dec .badLitmode) := if_pos (bne_iff_ne.2 h0)

theorem checkHeader_badWsize (h0 : (loadHeader w s).hdr.litmode = 0) (hw : legalWsize w = false) :
    checkHeader P w s = .next ((loadHeader w s).fail P .dec .badWsize) := by
  have hs : (loadHeader w s).hdr.wsize = w := rfl
  unfold checkHeader
  dsimp only
  rw [h0, hs, hw, if_neg (by decide), if_pos (by decide)]

/-- Settles O28: the flag is checked first, then the window size. -/
theorem illegalHeaderIsRejected : Obligations.IllegalHeaderIsRejected := by
  intro b w s hb t
  have hload : loadHeader w s = t := by
    show loadHeader w s = { s with hdr := { litmode := b, wsize := w }, dec := { s.dec with hdrByte0 := none } }
    rw [loadHeader, hb]
    rfl
  rw [← hload]
  have hlit : (loadHeader w s).hdr.litmode = b := congrArg (·.getD 0) hb
  constructor
  · intro h0
    exact checkHeader_badLitmode (hlit.trans_ne h0)
  · intro h0 hw
    exact checkHeader_badWsize (hlit.trans h0) (Bool.eq_false_iff.2 (mt legalWsize_iff.1 hw))

end Sys2Proof.Machine
end

section
/-! SUPPORT. The write side once `STOP` is set (R144, R145), and PEEK and CONSUME on the stream (R151 to R154). -/

namespace Sys2Proof.Machine

theorem storeByte_stopped {s : State} (h : s.tc.stop = true) (b : Byte) : storeByte b s = .ok () s := if_pos h

/-- An operation that never ends the step in a next state raises no exception. -/
theorem Res.Holds.ne_raise {α : Type} {Q : α → State → Prop} {r : Res α} (h : r.Holds Q fun _ => False) (P : Config.Params)
    (e : Engine) (c : Cause) (t : State) : r ≠ raise P e c t := by
  rintro rfl
  exact h

/-- Settles O17: each operation tests `STOP` first, and none ends the step in a next state. -/
theorem stoppedWriteSideChangesNothing : Obligations.StoppedWriteSideChangesNothing := by
  constructor
  · intro s h
    exact ⟨storeByte_stopped h, writeBits_stopped h, finish_stopped h⟩
  · intro P s e c t
    have hs := SameButWriter.refl s
    exact ⟨fun b => (hs.storeByte b).ne_raise P e c t, fun n v => (hs.writeBits n v).ne_raise P e c t,
      hs.finish.ne_raise P e c t⟩

/-- Settles O13: PEEK takes no bits, and CONSUME finds the `k` bits or not. -/
theorem peekLooksAndConsumeTakes : Obligations.PeekLooksAndConsumeTakes := by
  intro P k s h1 h8 h
  obtain ⟨t, hpeek, ht⟩ := h.peek h1 h8
  refine ⟨⟨t, hpeek, ht.rest, ht.reader, ht.frame⟩, ?_⟩
  rcases h.consume P h1 h8 with ⟨hk, u, hc, hu⟩ | ⟨hk, u, hc, hu⟩
  · exact ⟨fun _ => ⟨u, hc, hu.rest, hu.reader, hu.frame⟩, fun hlt => absurd hk (Nat.not_le.2 hlt)⟩
  · exact ⟨fun hle => absurd hk (Nat.not_lt.2 hle), fun _ => ⟨u, hc, hu.frame⟩⟩

end Sys2Proof.Machine
end

section
/-! SUPPORT. Where the input ends inside the header, a token or an offset (R154, R262 to R265, R314). -/

namespace Sys2Proof.Machine

variable {α β : Type} {s t : State} {e : Reject}

/-! ### The header (R262) -/

/-- The next byte is that of HDR0 where no byte is kept, else of HDR1. -/
theorem ReaderOk.fetchHeader (h : ReaderOk s) {b : Byte} {rest : List Byte} (hb : s.restBytes = b :: rest) :
    ∃ t, Machine.fetchHeader standard s = .ok (if s.dec.hdrByte0 = none then .hdr0 b else .hdr1 b) t ∧ TookBytes [b] s t ∧
      t.restBytes = rest := by
  rcases h.nextByte with ⟨h0, -⟩ | ⟨b', t, he, ht⟩
  · cases h0.symm.trans hb
  · obtain ⟨rfl, hrest⟩ := List.cons.inj (ht.rest.symm.trans hb)
    have hkept : t.dec.hdrByte0 = s.dec.hdrByte0 := congrArg (·.dec.hdrByte0) ht.frame
    refine ⟨t, ?_, ht, hrest⟩
    unfold Machine.fetchHeader
    rw [he, Res.bind_ok]
    simp only [hkept, Option.isNone_iff_eq_none]

theorem ReaderOk.fetchHeader_nil (h : ReaderOk s) (hb : s.restBytes = []) :
    ∃ t, SameButReader s t ∧ Machine.fetchHeader standard s = raise standard .dec .headerShort t := by
  rcases h.nextByte with ⟨-, t, he, ht⟩ | ⟨b, t, -, ht⟩
  · refine ⟨t, ht.frame, ?_⟩
    unfold Machine.fetchHeader
    rw [he, Res.bind_ok]
  · cases ht.rest.symm.trans hb

/-- A step of DEC whose fetch raises an exception takes it. -/
theorem step_of_decFetch_raise {c : Cause} (hs : s.running .dec)
    (hf : decFetch standard s = (raise standard .dec c t : Res Instr).fetched) : step s = .next (t.fail standard .dec c) := by
  rw [step_dec hs, hf]
  rfl

/-- Settles O11: HEADER takes the next byte, or there is none. -/
theorem stepRunsTheHeaderBytes : Obligations.StepRunsTheHeaderBytes := by
  intro s hs h hd
  have hfetch : decFetch standard s = (fetchHeader standard s).fetched := by
    unfold decFetch
    rw [hd]
  constructor
  · intro b rest hb
    obtain ⟨t, he, ht, hrest⟩ := h.fetchHeader hb
    exact ⟨t, step_of_decFetch hs (hfetch.trans (congrArg Res.fetched he)), hrest, ht.reader, ht.frame⟩
  · intro hb
    obtain ⟨t, hframe, he⟩ := h.fetchHeader_nil hb
    exact ⟨t, hframe, step_of_decFetch_raise hs (hfetch.trans (congrArg Res.fetched he))⟩

/-! ### Operations that starve -/

/-- The operation, begun in `s`, raises STARVED, only the bit reader having changed. -/
def Res.Starves (r : Res α) (s : State) : Prop := ∃ t, SameButReader s t ∧ r = raise standard .dec .starved t

theorem Res.Starves.bind {r : Res α} (h : r.Starves s) (f : α → State → Res β) : (r.bind f).Starves s := by
  obtain ⟨t, ht, rfl⟩ := h
  exact ⟨t, ht, rfl⟩

theorem Res.Starves.after {r : Res α} (h : r.Starves t) (ht : SameButReader s t) : r.Starves s := by
  obtain ⟨u, hu, he⟩ := h
  exact ⟨u, ht.trans hu, he⟩

/-- Which state of the FSM DEC was in does not show once it is in D_FAIL. -/
theorem Res.Starves.of_setDstate {r : Res α} {d : DState} (h : r.Starves (s.setDstate d)) : r.Starves s := by
  obtain ⟨t, ht, rfl⟩ := h
  have hback : SameButReader s (t.setDstate s.dec.dstate) := ht.setDstate s.dec.dstate
  exact ⟨_, hback, rfl⟩

theorem Res.Starves.step {r : Res Instr} (h : r.Starves s) (hs : s.running .dec) (hf : decFetch standard s = r.fetched) :
    ∃ t, SameButReader s t ∧ step s = .next (t.fail standard .dec .starved) := by
  obtain ⟨t, ht, rfl⟩ := h
  exact ⟨t, ht, step_of_decFetch_raise hs hf⟩

/-! ### Fields (R153 to R155) -/

/-- What starves after PEEK starves, since PEEK takes no bits. -/
theorem ReaderOk.peek_starves (h : ReaderOk s) {k : Nat} (h1 : 1 ≤ k) (h8 : k ≤ 8) {f : Nat → State → Res β}
    (hf : ∀ t, TookBits 0 s t → (f (natOfBits (s.restBits.take k)) t).Starves t) : ((Machine.peek k s).bind f).Starves s := by
  obtain ⟨t, he, ht⟩ := h.peek h1 h8
  rw [he, Res.bind_ok]
  exact (hf t ht).after ht.frame

/-- `k` bits are consumed before `f`, which needs `m`: where there are not that many, one of the two starves. -/
theorem ReaderOk.consume_starves (h : ReaderOk s) {k m : Nat} (h1 : 1 ≤ k) (h8 : k ≤ 8) {f : Unit → State → Res β}
    (hlen : s.restBits.length < k + m)
    (hf : ∀ t, ReaderOk t → SameButReader s t → t.restBits.length < m → (f () t).Starves t) :
    ((Machine.consume standard k s).bind f).Starves s := by
  rcases h.consume standard h1 h8 with ⟨hk, t, he, ht⟩ | ⟨-, t, he, ht⟩
  · have hshort : t.restBits.length < m := by
      rw [ht.rest, List.length_drop]
      omega
    rw [he, Res.bind_ok]
    exact (hf t ht.reader ht.frame hshort).after ht.frame
  · rw [he]
    exact ⟨t, ht.frame, rfl⟩

theorem ReaderOk.readBits_starves (h : ReaderOk s) {k : Nat} (h1 : 1 ≤ k) (h8 : k ≤ 8) (hk : s.restBits.length < k) :
    (Machine.readBits standard k s).Starves s := by
  refine h.peek_starves h1 h8 fun t ht =>
    ht.reader.consume_starves (m := 0) h1 h8 ?_ fun u _ _ hu => absurd hu (Nat.not_lt_zero _)
  rw [ht.rest]
  exact hk

theorem ReaderOk.readExtra_starves (h : ReaderOk s) {c : Nat} (h8 : lenExtra tPkware c ≤ 8)
    (hk : s.restBits.length < lenExtra tPkware c) : (Machine.readExtra standard c s).Starves s := by
  have hpos : 0 < lenExtra tPkware c := Nat.zero_lt_of_lt hk
  have hread : Machine.readExtra standard c s = Machine.readBits standard (lenExtra tPkware c) s := if_neg (Nat.ne_of_gt hpos)
  rw [hread]
  exact h.readBits_starves hpos h8 hk

/-! ### Tokens and offsets that do not decode (R264, R265) -/

variable {T : Config.CodeTables} {bits : List Bool}

/-- A length row fails to decode only for want of bits: its class is known, its code and extra bits are not all there. -/
theorem length_lt_of_decodeLength_error (h : DecoderTables T) (hd : decodeLength T bits = .error e) :
    ∃ c < 16, lenClass T (peekBits 8 bits) = some c ∧ bits.length < lenBits T c + lenExtra T c := by
  obtain ⟨c, (hclass : lenClass T (peekBits 8 bits) = some c)⟩ :=
    Option.ne_none_iff_exists'.1 (h.lenClasses.classOf_ne_none (peekBits_lt bits))
  have hc := ((h.lenClasses.classOf_eq_some (peekBits_lt bits)).1 hclass).1
  refine ⟨c, hc, hclass, Nat.lt_of_not_le fun hle => ?_⟩
  have hcode := takeBits_eq_some.2 ⟨show lenBits T c ≤ bits.length by omega, rfl, rfl⟩
  have hext := takeBits_eq_some.2
    ⟨show lenExtra T c ≤ (bits.drop (lenBits T c)).length by rw [List.length_drop]; omega, rfl, rfl⟩
  obtain ⟨i, hi⟩ := lenInstr_isSome T hc (natOfBits ((bits.drop (lenBits T c)).take (lenExtra T c)))
  unfold decodeLength at hd
  simp only [hclass, hcode, hext, hi] at hd
  cases hd

/-- The same for an offset row and its low field. -/
theorem length_lt_of_decodeOffset_error (h : DecoderTables T) {lw : Nat} (hlw : lw ∈ [2, 4, 5, 6])
    (hd : decodeOffset T lw bits = .error e) :
    ∃ c < 64, distClass T (peekBits 8 bits) = some c ∧ bits.length < distBits T c + lw := by
  obtain ⟨c, (hclass : distClass T (peekBits 8 bits) = some c)⟩ :=
    Option.ne_none_iff_exists'.1 (h.distClasses.classOf_ne_none (peekBits_lt bits))
  have hc := ((h.distClasses.classOf_eq_some (peekBits_lt bits)).1 hclass).1
  refine ⟨c, hc, hclass, Nat.lt_of_not_le fun hle => ?_⟩
  have hcode := takeBits_eq_some.2 ⟨show distBits T c ≤ bits.length by omega, rfl, rfl⟩
  have hlow := takeBits_eq_some.2 ⟨show lw ≤ (bits.drop (distBits T c)).length by rw [List.length_drop]; omega, rfl, rfl⟩
  obtain ⟨low, hof⟩ := lowOf_isSome hlw (natOfBits ((bits.drop (distBits T c)).take lw))
  obtain ⟨i, hi⟩ := distInstr_isSome hc low
  unfold decodeOffset at hd
  simp only [hclass, hcode, hlow, hof, Option.bind_some, hi] at hd
  cases hd

/-! ### Fetches of rows that do not decode -/

theorem ReaderOk.fetchLiteral_starves (h : ReaderOk s) (hd : decodeByte .lit s.restBits = .error e) :
    (Machine.fetchLiteral standard s).Starves s :=
  (h.readBits_starves (k := 8) (by decide) (Nat.le_refl 8) (decodeByte_eq_error hd).2).bind _

theorem ReaderOk.decodeLen_starves (h : ReaderOk s) (hj : s.dec.lenj = builtLenj tPkware)
    (hd : decodeLength tPkware s.restBits = .error e) : (Machine.decodeLen standard s).Starves s := by
  obtain ⟨c, hc, hclass, hlen⟩ := length_lt_of_decodeLength_error decoderTables_tPkware hd
  obtain ⟨hb1, hb8, he8⟩ := lenBits_tPkware c hc
  refine h.peek_starves (k := 8) (by decide) (Nat.le_refl 8) fun t ht => ?_
  have hcell : t.dec.lenj.getD (natOfBits (s.restBits.take 8)) 0 = c := by
    rw [ht.frame.lenj, hj]
    exact getD_builtLenj (natOfBits_take_lt 8 _) hclass
  have hrest : t.restBits = s.restBits := ht.rest
  dsimp only
  rw [hcell]
  exact ht.reader.consume_starves hb1 hb8 (hrest ▸ hlen) fun u hu _ hshort => (hu.readExtra_starves he8 hshort).bind _

theorem ReaderOk.decodeOff_starves (h : ReaderOk s) (hj : s.dec.distj = builtDistj tPkware) (hw : legalWsize s.hdr.wsize = true)
    {len : Nat} (hd : decodeOffset tPkware (lowWidth len s.hdr.wsize) s.restBits = .error e) :
    (Machine.decodeOff standard len s).Starves s := by
  have hlw := lowWidth_mem hw len
  obtain ⟨c, hc, hclass, hlen⟩ := length_lt_of_decodeOffset_error decoderTables_tPkware hlw hd
  obtain ⟨hb1, hb8⟩ := distBits_tPkware c hc
  have hlw8 : 1 ≤ lowWidth len s.hdr.wsize ∧ lowWidth len s.hdr.wsize ≤ 8 := by
    simp only [List.mem_cons, List.not_mem_nil, or_false] at hlw
    omega
  refine h.peek_starves (k := 8) (by decide) (Nat.le_refl 8) fun t ht => ?_
  have hcell : t.dec.distj.getD (natOfBits (s.restBits.take 8)) 0 = c := by
    rw [ht.frame.distj, hj]
    exact getD_builtDistj (natOfBits_take_lt 8 _) hclass
  have hrest : t.restBits = s.restBits := ht.rest
  dsimp only
  rw [hcell]
  refine ht.reader.consume_starves hb1 hb8 (hrest ▸ hlen) fun u hu hframe hshort => ?_
  rw [(ht.frame.trans hframe).hdr]
  exact (hu.readBits_starves hlw8.1 hlw8.2 hshort).bind _

/-- SELECT starves, or the row it selects does. -/
theorem ReaderOk.fetchToken_starves (h : ReaderOk s) (hj : s.dec.lenj = builtLenj tPkware)
    (hd : decodeToken tPkware s.restBits = .error e) : (Machine.fetchToken standard s).Starves s := by
  unfold decodeToken at hd
  split at hd
  · next hb => exact (h.readBits_starves (Nat.le_refl 1) (by decide) (by rw [hb]; exact Nat.one_pos)).bind _
  · next bits hb =>
    obtain ⟨t, he, hrest, ht, hframe⟩ := h.select hb .literal
    unfold Machine.fetchToken
    rw [he]
    exact ((ht.fetchLiteral_starves (hrest.symm ▸ hd)).after hframe).of_setDstate
  · next bits hb =>
    obtain ⟨t, he, hrest, ht, hframe⟩ := h.select hb .copy
    have hjt : (t.setDstate .copy).dec.lenj = builtLenj tPkware := hframe.lenj.trans hj
    unfold Machine.fetchToken
    rw [he]
    exact (((ht.decodeLen_starves hjt (hrest.symm ▸ hd)).bind _).after hframe).of_setDstate

/-- Settles O12: where the decoder finds too few bits, so does the fetch. -/
theorem truncatedTokenStarves : Obligations.TruncatedTokenStarves := by
  constructor
  · intro s e hs h hj hd hdec
    refine (h.fetchToken_starves hj hdec).step hs ?_
    unfold decFetch
    rw [hd]
  · intro s e hs h hj hw hd hoff hdec
    refine ((h.decodeOff_starves hj hw hdec).bind _).step (r := fetchOffset standard s) hs ?_
    unfold decFetch
    rw [hd, hoff]
    rfl

end Sys2Proof.Machine
end

section
/-! SUPPORT. The jump tables of any well-formed code tables (R172, R178, R179), and the default tables (R171). -/

namespace Sys2Proof.Machine

theorem tables_wf_of_wf {P : Config.Params} (h : P.wf = true) : P.tables.wf = true := by
  simp only [Config.Params.wf, Bool.and_eq_true] at h
  exact h.1.1

/-- Settles O5: they are the tables of `standard`, whose parameters are well-formed. -/
theorem defaultTablesAreWellFormed : Obligations.DefaultTablesAreWellFormed := by
  have htables : standard.tables = tPkware := rfl
  unfold Obligations.DefaultTablesAreWellFormed
  rw [← htables]
  exact tables_wf_of_wf standard_wf

section ClassCode

variable {n c x : Nat} {bits codes : List Nat} (h : ClassCode n bits codes)
include h

/-- Each code fits its width, pair by pair as BUILD_JUMP takes them. -/
theorem ClassCode.zip_fits : ∀ p ∈ bits.zip codes, p.2 < 2 ^ p.1 := by
  intro p hp
  obtain ⟨c, hc, rfl⟩ := List.mem_iff_getElem.1 hp
  have hfit := h.fits c
  obtain ⟨hb, hd⟩ := Nat.lt_min.1 (List.length_zip ▸ hc)
  rw [List.getElem_zip]
  rwa [List.getD_eq_getElem _ _ hb, List.getD_eq_getElem _ _ hd] at hfit

/-- A cell of the jump table names the one class whose code its pattern begins with. -/
theorem ClassCode.getD_buildJump_eq_iff (hx : x < 256) (hc : c < n) :
    (buildJump bits codes).getD x 0 = c ↔ lowbits x (bits.getD c 0) = codes.getD c 0 := by
  obtain ⟨d, hd⟩ := Option.ne_none_iff_exists'.1 (h.classOf_ne_none hx)
  have hclass := h.classOf_eq_some (c := c) hx
  rw [hd, Option.some.injEq] at hclass
  rw [getD_buildJump h.zip_fits hx, hd, Option.getD_some, hclass, and_iff_right hc]

end ClassCode

/-- Settles O6: the first class for codes that fit, and with the codes of well-formed tables the only one. -/
theorem jumpTablesNameTheClass : Obligations.JumpTablesNameTheClass := by
  refine ⟨fun _ _ hfit _ hx => getD_buildJump hfit hx, fun T hT => ?_⟩
  have h := decoderTables_of_wf hT
  unfold builtLenj builtDistj
  exact ⟨fun _ _ hx hi => h.lenClasses.getD_buildJump_eq_iff hx hi, fun _ _ hx hc => h.distClasses.getD_buildJump_eq_iff hx hc⟩

end Sys2Proof.Machine
end

section
/-! SUPPORT. The tokens of TOKENS(x, N) executed on the input before them (R215, R240, R272): a match of R215 is a run of bytes that
stands in the dictionary too, so the copy it becomes repeats the input, and so does a literal. -/

namespace Sys2Proof.Machine

variable {P : Config.Params} {dsize : Nat} {x : Memory} {n p : Nat}

/-! ### Matches (R215) -/

/-- The bytes counted as a match are equal. -/
theorem read_eq_of_lt_matchLen (n : Nat) : ∀ q p i, i < matchLen x q p n → x.read (q + i) = x.read (p + i) := by
  induction n with
  | zero => intro q p i hi; exact absurd hi (Nat.not_lt_zero i)
  | succ n ih =>
    intro q p i hi
    rw [matchLen] at hi
    split_ifs at hi with h0
    · cases i with
      | zero => exact h0
      | succ i =>
        have := ih (q + 1) (p + 1) i (Nat.lt_of_succ_lt_succ hi)
        rwa [Nat.add_right_comm, Nat.add_right_comm p] at this
    · exact absurd hi (Nat.not_lt_zero i)

theorem eq_of_find?_eq_some {run : Nat → Nat} {k q : Nat} {cands : List Nat} (h : (cands.find? fun q => run q == k) = some q) :
    q ∈ cands ∧ run q = k := ⟨List.mem_of_find?_eq_some h, by simpa using List.find?_some h⟩

/-- A choice of R215, if it is one, is the run of a candidate at its offset. -/
theorem archPick_eq {run : Nat → Nat} {cands : List Nat} (h : 2 ≤ (archPick run p cands).1) :
    ∃ q ∈ cands, archPick run p cands = (run q, p - q - 1) := by
  unfold archPick at h ⊢
  cases hfull : cands.find? fun q => run q == Config.maxRep with
  | some q =>
    obtain ⟨hmem, hq⟩ := eq_of_find?_eq_some hfull
    exact ⟨q, hmem, by rw [hq]⟩
  | none =>
    rw [hfull] at h
    dsimp only at h ⊢
    split_ifs at h ⊢
    · exact absurd h (by decide)
    · cases hlong : cands.reverse.find? fun q => run q == cands.foldl (fun m q => max m (run q)) 0 with
      | some q =>
        obtain ⟨hmem, hq⟩ := eq_of_find?_eq_some hlong
        exact ⟨q, List.mem_reverse.1 hmem, by rw [hq]⟩
      | none =>
        rw [hlong] at h
        cases h

/-- What a match at `p` of the input `x[0 .. n)` promises (R206, R210, R215). -/
structure MatchAt (dsize : Nat) (x : Memory) (n p : Nat) (m : Nat × Nat) : Prop where
  within : MatchWithin (archMaxLen n p) dsize m
  start  : m.2 + 1 ≤ p
  bytes  : ∀ i < m.1, x.read (p - (m.2 + 1) + i) = x.read (p + i)
  two    : m.1 = 2 → m.2 < 256

theorem matchAt_archMatch (h : 2 ≤ (archMatch dsize x n p).1) : MatchAt dsize x n p (archMatch dsize x n p) := by
  unfold archMatch lengthTwoRule at h ⊢
  split_ifs at h ⊢ with hmax htwo
  · exact absurd h (by decide)
  · exact absurd h (by decide)
  · obtain ⟨q, hq, hpick⟩ := archPick_eq h
    have hq := List.mem_range'_1.1 hq
    rw [hpick] at htwo ⊢
    refine ⟨⟨matchLen_le _ _ _ _, by dsimp only; omega⟩, by dsimp only; omega, fun i hi => ?_, fun h2 => ?_⟩
    · rw [show p - (p - q - 1 + 1) = q by omega]
      exact read_eq_of_lt_matchLen _ _ _ i hi
    · exact Nat.lt_of_not_le fun hoff => htwo ⟨h2, hoff⟩

/-! ### Execution (R272) -/

theorem loadBytes_succ (x : Memory) (p : Nat) : loadBytes x 0 (p + 1) = loadBytes x 0 p ++ [x.read p] := by
  rw [loadBytes_add, Nat.zero_add]
  rfl

theorem getD_loadBytes (x : Memory) (n : Nat) : ∀ a i, i < n → (loadBytes x a n).getD i 0 = x.read (a + i) := by
  induction n with
  | zero => intro a i hi; exact absurd hi (Nat.not_lt_zero i)
  | succ n ih =>
    intro a i hi
    cases i with
    | zero => rfl
    | succ i => rw [loadBytes, List.getD_cons_succ, ih (a + 1) i (Nat.lt_of_succ_lt_succ hi), Nat.add_right_comm, Nat.add_assoc]

/-- A copy of bytes that stand `off + 1` places earlier in the input too repeats the input, its own bytes among the source. -/
theorem archCopy_loadBytes {off : Nat} (k : Nat) : ∀ p, off + 1 ≤ p →
    (∀ i < k, x.read (p - (off + 1) + i) = x.read (p + i)) → archCopy off (loadBytes x 0 p) k = loadBytes x 0 (p + k) := by
  induction k with
  | zero => intro p _ _; rfl
  | succ k ih =>
    intro p hp h
    have hfirst : x.read (p - (off + 1)) = x.read p := h 0 (Nat.succ_pos k)
    rw [archCopy, length_loadBytes, getD_loadBytes x p 0 _ (by omega), Nat.zero_add, hfirst, ← loadBytes_succ,
      ih (p + 1) (by omega) fun i hi => ?_, Nat.add_assoc, Nat.add_comm 1]
    have := h (i + 1) (Nat.succ_lt_succ hi)
    rwa [show p + 1 - (off + 1) + i = p - (off + 1) + (i + 1) by omega, show p + 1 + i = p + (i + 1) by omega]

theorem MatchAt.exec_copy {m : Nat × Nat} (h : MatchAt dsize x n p m) :
    archExec (.copy m.1 m.2) (loadBytes x 0 p) = some (loadBytes x 0 (p + m.1)) := by
  rw [archExec, length_loadBytes, if_neg (Nat.not_lt.2 h.start), archCopy_loadBytes _ _ h.start h.bytes]

theorem archExec_lit : archExec (.lit (x.read p)) (loadBytes x 0 p) = some (loadBytes x 0 (p + 1)) :=
  congrArg some (loadBytes_succ x p).symm

theorem MatchAt.encodable {wsize : Byte} {m : Nat × Nat} (h : MatchAt (64 * 2 ^ wsize.toNat) x n p m) (h2 : 2 ≤ m.1) :
    (Token.copy m.1 m.2).encodable wsize = true := by
  have hmax : archMaxLen n p ≤ 516 := Nat.min_le_left _ _
  have hlen := h.within.1
  simp only [Token.encodable, Bool.and_eq_true, decide_eq_true_eq]
  refine ⟨⟨h2, by show m.1 ≤ 518; omega⟩, ?_⟩
  split_ifs with htwo
  · exact decide_eq_true (h.two htwo)
  · exact decide_eq_true h.within.2

/-- A token at `p` of the input covers 1 to 516 of its bytes: executed on the bytes before `p` it appends those. -/
structure Covers (x : Memory) (n p : Nat) (t : Token × Nat) : Prop where
  pos  : 1 ≤ t.2
  le   : t.2 ≤ 516
  room : p + t.2 ≤ n
  exec : archExec t.1 (loadBytes x 0 p) = some (loadBytes x 0 (p + t.2))

theorem covers_lit (hp : p < n) : Covers x n p (.lit (x.read p), 1) := ⟨Nat.le_refl 1, Nat.le_add_left 1 515, hp, archExec_lit⟩

theorem MatchAt.covers {m : Nat × Nat} (h : MatchAt dsize x n p m) (h2 : 2 ≤ m.1) (hp : p < n) :
    Covers x n p (.copy m.1 m.2, m.1) := by
  have hlen : m.1 ≤ min 516 (n - p) := h.within.1
  exact ⟨by dsimp only; omega, by dsimp only; omega, by dsimp only; omega, h.exec_copy⟩

/-- The token of R240 is a literal, or the copy of a match. -/
theorem archToken_cases (P : Config.Params) (dsize : Nat) (x : Memory) (n p : Nat) :
    archToken P dsize x n p = (.lit (x.read p), 1) ∨
      ∃ m, 2 ≤ m.1 ∧ MatchAt dsize x n p m ∧ archToken P dsize x n p = (.copy m.1 m.2, m.1) := by
  unfold archToken
  dsimp only
  split_ifs with h2 hdefer
  · exact .inl rfl
  · exact .inr ⟨_, h2, matchAt_archMatch h2, rfl⟩
  · exact .inl rfl

theorem covers_archToken (P : Config.Params) (dsize : Nat) (x : Memory) (hp : p < n) : Covers x n p (archToken P dsize x n p) := by
  rcases archToken_cases P dsize x n p with h | ⟨m, h2, hm, h⟩
  · exact h ▸ covers_lit hp
  · exact h ▸ hm.covers h2 hp

theorem archToken_encodable (P : Config.Params) (wsize : Byte) (x : Memory) (n p : Nat) :
    (archToken P (64 * 2 ^ wsize.toNat) x n p).1.encodable wsize = true := by
  rcases archToken_cases P (64 * 2 ^ wsize.toNat) x n p with h | ⟨m, h2, hm, h⟩
  · rw [h]
    rfl
  · rw [h]
    exact hm.encodable h2

end Sys2Proof.Machine
end

section
/-! SUPPORT. Reading a token back from its bits (R105 to R112, R114): the class of a length symbol, the class and the low field of an
offset, and what the decoder makes of them. -/

namespace Sys2Proof.Machine

variable {T : Config.CodeTables} {wsize : Byte} {bits rest : List Bool}

/-- Every symbol of a tiling belongs to a class (R106, R172 W4). -/
theorem exists_class_of_tiles (bs : List Nat) : ∀ es a sym, Config.tiles bs es a = true → a ≤ sym → sym < 518 →
    ∃ c < bs.length, bs.getD c 0 ≤ sym ∧ sym < bs.getD c 0 + 2 ^ es.getD c 0 := by
  induction bs with
  | nil =>
    intro es a sym h hlo hhi
    cases es with
    | nil =>
      obtain rfl : a = 518 := beq_iff_eq.1 h
      omega
    | cons e es => cases h
  | cons b bs ih =>
    intro es a sym h hlo hhi
    cases es with
    | nil => cases h
    | cons e es =>
      obtain ⟨rfl, ht⟩ := tiles_cons.1 h
      by_cases hb : sym < b + 2 ^ e
      · exact ⟨0, Nat.succ_pos _, hlo, hb⟩
      · obtain ⟨c, hc, hsym⟩ := ih es _ sym ht (Nat.le_of_not_lt hb) hhi
        exact ⟨c + 1, Nat.succ_lt_succ hc, hsym⟩

/-- The class found for a symbol is one of 16, and the symbol is one of its symbols. -/
theorem lenClassOfSym_spec (h : EncoderTables T) {sym : Nat} (hs : sym < 518) :
    lenClassOfSym T sym < 16 ∧ lenBase T (lenClassOfSym T sym) ≤ sym ∧
      sym - lenBase T (lenClassOfSym T sym) < 2 ^ lenExtra T (lenClassOfSym T sym) := by
  obtain ⟨hlen, -, htiles⟩ := h.tiles
  obtain ⟨c, hc, hlo, hhi⟩ := exists_class_of_tiles T.lenBase T.lenExtra 0 sym htiles (Nat.zero_le _) hs
  have hc : c < 16 := hlen ▸ hc
  have hlo : lenBase T c ≤ sym := hlo
  have he : sym - lenBase T c < 2 ^ lenExtra T c := Nat.sub_lt_left_of_lt_add hlo hhi
  have hclass := (h.lenClassOfSym hc he).2
  rw [Nat.add_sub_cancel' hlo] at hclass
  rw [hclass]
  exact ⟨hc, hlo, he⟩

/-- The length codeword of a symbol other than 517 decodes to a row of its class and extra value. -/
theorem DecoderTables.decodeToken_encodeLength (h : DecoderTables T) {c e : Nat} (hc : c < 16) (he : e < 2 ^ lenExtra T c)
    (hne : lenBase T c + e ≠ 517) (rest : List Bool) :
    ∃ i, decodeToken T (encodeLength T c e ++ rest) = .ok (i, rest) ∧ i.lenParts T = some (c, e) ∧ i ≠ .endOfStream := by
  obtain ⟨i, hi⟩ := lenInstr_isSome T hc e
  have hp := lenParts_of_lenInstr_eq_some h hc he hi
  refine ⟨i, (decodeLength_iff h).2 ⟨c, e, hc, he, hi, rfl⟩, hp, ?_⟩
  rintro rfl
  obtain ⟨rfl, rfl⟩ := Prod.mk.inj (Option.some.inj hp)
  exact hne h.end_mem_lastClass.1

/-- The codeword of an offset below 64 times its low fields decodes to a row of that offset (R110 to R112). -/
theorem DecoderTables.decodeOffset_offset (h : DecoderTables T) {lw off : Nat} (hlw : lw ∈ [2, 4, 5, 6]) (hoff : off < 64 * 2 ^ lw)
    (rest : List Bool) :
    ∃ d c low, decodeOffset T lw (bitsOfNat (distBits T (off / 2 ^ lw)) (distCode T (off / 2 ^ lw)) ++
        bitsOfNat lw (lowbits off lw) ++ rest) = .ok (d, rest) ∧ d.distParts = some (c, low) ∧ offsetOf c low = off := by
  have hlt : lowbits off lw < 2 ^ lw := Nat.mod_lt _ (Nat.two_pow_pos lw)
  obtain ⟨low, hlow⟩ := lowOf_isSome hlw (lowbits off lw)
  obtain ⟨rfl, hval⟩ := width_val_of_lowOf hlt hlow
  obtain ⟨d, hd⟩ := distInstr_isSome (Nat.div_lt_of_lt_mul (Nat.mul_comm 64 _ ▸ hoff)) low
  have hp := distParts_of_distInstr hd
  refine ⟨d, _, low, (decodeOffset_iff h).2 ⟨_, low, hp, rfl, ?_⟩, hp, ?_⟩
  · rw [encodeOffset, hval]
  · rw [offsetOf, hval]
    exact Nat.div_add_mod' off _

/-! ### Whole tokens -/

/-- A length row and an offset row in a row are a copy. -/
theorem archRead_copy {i d : Instr} {rest' : List Bool} {c e b : Nat} {low : Low} (hi : decodeToken T bits = .ok (i, rest))
    (hp : i.lenParts T = some (c, e)) (hne : i ≠ .endOfStream)
    (hd : decodeOffset T (lowWidth (copyLength T c e) wsize) rest = .ok (d, rest')) (hq : d.distParts = some (b, low)) :
    archRead T wsize bits = .token (.copy (copyLength T c e) (offsetOf b low)) rest' := by
  unfold archRead
  rw [hi]
  split
  · next heq => cases heq
  · next heq => cases heq; cases hp
  · next heq => cases heq; exact absurd rfl hne
  · next heq =>
    cases heq
    rw [hp]
    dsimp only
    rw [hd]
    dsimp only
    rw [hq]

theorem archRead_lit (b : Byte) (rest : List Bool) :
    archRead T wsize (encode T (.lit b) ++ rest) = .token (.lit b) rest := by
  have hd : decodeToken T (encode T (.lit b) ++ rest) = .ok (.lit b, rest) := decodeByte_eq_ok.2 ⟨b, rfl, rfl⟩
  unfold archRead
  rw [hd]

theorem archRead_end (h : DecoderTables T) (rest : List Bool) : archRead T wsize (encode T .endOfStream ++ rest) = .theEnd := by
  have hd : decodeToken T (encode T .endOfStream ++ rest) = .ok (.endOfStream, rest) :=
    (decodeLength_iff h).2 ⟨15, _, by decide, h.end_mem_lastClass.2, if_pos h.end_mem_lastClass.1, rfl⟩
  unfold archRead
  rw [hd]

/-- What an encoding asks of a copy: its length symbol is one other than END's, its offset one of 64 classes (R176). -/
theorem of_copy_encodable {len off : Nat} (h : (Token.copy len off).encodable wsize = true) :
    2 ≤ len ∧ len - 2 < 517 ∧ off < 64 * 2 ^ lowWidth len wsize := by
  simp only [Token.encodable, Bool.and_eq_true, decide_eq_true_eq] at h
  obtain ⟨⟨h2, h518⟩, hoff⟩ := h
  have h518 : len ≤ 518 := h518
  refine ⟨h2, by omega, ?_⟩
  unfold lowWidth
  split_ifs at hoff ⊢ <;> exact of_decide_eq_true hoff

/-- The bits of a token that has an encoding are read as that token. -/
theorem archRead_bits (h : DecoderTables T) (hw : legalWsize wsize = true) {tok : Token} (he : tok.encodable wsize = true)
    (rest : List Bool) : archRead T wsize (tok.bits T wsize ++ rest) = .token tok rest := by
  cases tok with
  | lit b => exact archRead_lit b rest
  | copy len off =>
    obtain ⟨h2, hsym, hoff⟩ := of_copy_encodable he
    obtain ⟨hc, hbase, hext⟩ := lenClassOfSym_spec h.toEncoderTables (hsym.trans (Nat.lt_succ_self 517))
    have hlen : copyLength T (lenClassOfSym T (len - 2)) (len - 2 - lenBase T (lenClassOfSym T (len - 2))) = len := by
      unfold copyLength
      omega
    obtain ⟨d, b, low, hd, hq, hof⟩ := h.decodeOffset_offset (lowWidth_mem hw len) hoff rest
    obtain ⟨i, hi, hp, hne⟩ := h.decodeToken_encodeLength hc hext (by omega) (_ ++ rest)
    have hread := archRead_copy (wsize := wsize) hi hp hne (hlen.symm ▸ hd) hq
    rw [hlen, hof] at hread
    rw [Token.bits, List.append_assoc]
    exact hread

end Sys2Proof.Machine
end

section
/-! SUPPORT. DECOMPRESS of STREAM(x, N, WSIZE) (R240, R241, R272, R273): the bits packed into the stream are read back, and the tokens
that cover the input rebuild it, unless a push does not fit. -/

namespace Sys2Proof.Machine

variable {T : Config.CodeTables} {wsize : Byte}

/-! ### The bits of the stream (R71, R73) -/

/-- A byte begins with the up to 8 bits it was packed from. -/
theorem isPrefix_bitsOfNat_natOfBits {bits : List Bool} (h : bits.length ≤ 8) :
    bits <+: bitsOfNat 8 (BitVec.ofNat 8 (natOfBits bits)).toNat := by
  have hlt : natOfBits bits < 2 ^ 8 := (natOfBits_lt bits).trans_le (Nat.pow_le_pow_right (by decide) h)
  rw [BitVec.toNat_ofNat, Nat.mod_eq_of_lt hlt, ← Nat.add_sub_cancel' h, bitsOfNat_add, bitsOfNat_natOfBits]
  exact List.prefix_append _ _

theorem isPrefix_bitsOfBytes_packBits (n : Nat) : ∀ bits : List Bool, bits.length ≤ 8 * n →
    bits <+: bitsOfBytes (packBits n bits) := by
  induction n with
  | zero =>
    intro bits h
    obtain rfl := List.length_eq_zero_iff.1 (Nat.le_zero.1 h)
    exact List.nil_prefix
  | succ n ih =>
    intro bits h
    rw [packBits, bitsOfBytes]
    rcases Nat.le_total bits.length 8 with h8 | h8
    · rw [List.take_of_length_le h8]
      exact (isPrefix_bitsOfNat_natOfBits h8).trans (List.prefix_append _ _)
    · have hlt : natOfBits (bits.take 8) < 2 ^ 8 := natOfBits_take_lt 8 bits
      rw [BitVec.toNat_ofNat, Nat.mod_eq_of_lt hlt, bitsOfNat_natOfBits_take h8]
      conv_lhs => rw [← List.take_append_drop 8 bits]
      exact (List.prefix_append_right_inj _).2 (ih _ (by rw [List.length_drop]; omega))

/-- The bytes of a packed bit string begin with its bits. -/
theorem isPrefix_bitsOfBytes_packAll (bits : List Bool) : bits <+: bitsOfBytes (packAll bits) :=
  isPrefix_bitsOfBytes_packBits _ bits (by omega)

/-- A token takes a bit at least. -/
theorem length_token_bits_pos (T : Config.CodeTables) (wsize : Byte) (tok : Token) : 0 < (tok.bits T wsize).length := by
  cases tok <;> exact Nat.succ_pos _

/-! ### The tokens executed (R272, R273) -/

theorem archTokens_of_le (P : Config.Params) (dsize : Nat) (x : Memory) {n p : Nat} (h : n ≤ p) (count : Nat) :
    archTokens P dsize x n p count = [] := by
  cases count with
  | zero => rfl
  | succ count => rw [archTokens, if_neg (Nat.not_lt.2 h)]

/-- At END the rest of the output leaves, if there is any and it fits. -/
theorem archSteps_end (hT : DecoderTables T) {cap pushed n : Nat} (hpush : pushed ≤ cap) {y : List Byte} (hy : y.length = n)
    (pad : List Bool) (fuel : Nat) :
    archSteps T wsize cap (encode T .endOfStream ++ pad) y pushed (fuel + 1) = if n ≤ cap then .success y else .failure .push := by
  rw [archSteps, archRead_end hT]
  dsimp only
  by_cases hfit : n ≤ cap
  · rw [if_pos hfit, if_neg (by omega)]
  · rw [if_neg hfit, if_pos (by omega)]

/-- A token that has an encoding and can be executed is, before the flush test. -/
theorem archSteps_token (hT : DecoderTables T) (hw : legalWsize wsize = true) {tok : Token} (he : tok.encodable wsize = true)
    {y y' : List Byte} (hy : archExec tok y = some y') (cap pushed : Nat) (rest : List Bool) (fuel : Nat) :
    archSteps T wsize cap (tok.bits T wsize ++ rest) y pushed (fuel + 1) =
      if y'.length < pushed + 4096 then archSteps T wsize cap rest y' pushed fuel
      else if cap < pushed + 4096 then .failure .push
      else archSteps T wsize cap rest y' (pushed + 4096) fuel := by
  rw [archSteps, archRead_bits hT hw he]
  dsimp only
  rw [hy]

/-- From a token boundary on: the output so far is the input up to `p`, fewer than 4096 bytes of it are not pushed yet, and what has
been pushed fits. A token appends at most 516 bytes, so one push after it is enough. -/
theorem archSteps_programBits (P : Config.Params) (hT : DecoderTables T) (hw : legalWsize wsize = true) (x : Memory) (n cap : Nat)
    (count : Nat) : ∀ p pushed fuel bits, p ≤ n → n ≤ p + count → pushed ≤ cap → p < pushed + 4096 → bits.length ≤ fuel →
      programBits T wsize (archTokens P (64 * 2 ^ wsize.toNat) x n p count) <+: bits →
      archSteps T wsize cap bits (loadBytes x 0 p) pushed (fuel + 1) =
        if n ≤ cap then .success (loadBytes x 0 n) else .failure .push := by
  induction count with
  | zero =>
    rintro p pushed fuel _ hp hn hpush - - ⟨pad, rfl⟩
    obtain rfl : p = n := Nat.le_antisymm hp hn
    exact archSteps_end hT hpush (length_loadBytes x p 0) pad fuel
  | succ count ih =>
    rintro p pushed fuel _ hp hn hpush hflush hfuel ⟨pad, rfl⟩
    rcases hp.eq_or_lt with rfl | hlt
    · rw [archTokens_of_le P _ x (Nat.le_refl p)]
      exact archSteps_end hT hpush (length_loadBytes x p 0) pad fuel
    · obtain ⟨hpos, hle, hroom, hexec⟩ := covers_archToken P (64 * 2 ^ wsize.toNat) x hlt
      have henc := archToken_encodable P wsize x n p
      rw [archTokens, if_pos hlt] at hfuel ⊢
      generalize archToken P (64 * 2 ^ wsize.toNat) x n p = t at *
      have hbits := length_token_bits_pos T wsize t.1
      rw [programBits, List.append_assoc] at hfuel ⊢
      rw [List.length_append] at hfuel
      rw [archSteps_token hT hw henc hexec, length_loadBytes]
      cases fuel with
      | zero => omega
      | succ fuel =>
        by_cases hfew : p + t.2 < pushed + 4096
        · rw [if_pos hfew]
          exact ih _ pushed fuel _ hroom (by omega) hpush hfew (by omega) (List.prefix_append _ _)
        · rw [if_neg hfew]
          by_cases hcap : cap < pushed + 4096
          · rw [if_pos hcap, if_neg (by omega)]
          · rw [if_neg hcap]
            exact ih _ (pushed + 4096) fuel _ hroom (by omega) (Nat.le_of_not_lt hcap) (by omega) (by omega) (List.prefix_append _ _)

/-- Settles O57: the stream's bits are read back token by token, each the input's next bytes, up to a push that does not fit. -/
theorem roundTrip : Obligations.RoundTrip := by
  intro P wsize x n cap hP hw
  have hT := decoderTables_of_wf (tables_wf_of_wf hP)
  rw [archStream, archDecompress, if_neg (not_not.2 rfl), if_pos hw, ← length_bitsOfBytes]
  exact archSteps_programBits P hT hw x n cap n 0 0 _ _ (Nat.zero_le n) (Nat.le_add_left n 0) (Nat.zero_le cap) (by decide)
    (Nat.le_refl _) (isPrefix_bitsOfBytes_packAll _)

end Sys2Proof.Machine
end

section
/-! SUPPORT. What INDEX_BUILD leaves in the buckets (R201 to R203): the indexed positions by their hash, oldest first, none in the
buckets no hash reaches. -/

namespace Sys2Proof.Machine

variable {s t : State}

/-! ### HASH (R201) -/

theorem hash_le (b0 b1 : Byte) : hash b0 b1 ≤ 2295 := by
  have h0 := b0.isLt
  have h1 := b1.isLt
  unfold hash
  omega

theorem bucketOf_eq_nil (work : Memory) (lo n : Nat) {h : Nat} (hh : 2296 ≤ h) : bucketOf work lo n h = [] := by
  refine List.filter_eq_nil_iff.2 fun q _ hq => ?_
  have hle : hashAt work q ≤ 2295 := hash_le _ _
  have : hashAt work q = h := by simpa using hq
  omega

/-! ### The ends of the buckets (R203) -/

/-- Where `HTAB` and `NIDX` give the slots of an index, a bucket ends where the next one begins, the last one at `NIDX`. -/
theorem bend_of_slots {work : Memory} {lo n : Nat} (hn : s.cmp.nidx = n)
    (hf : ∀ h < 2304, s.cmp.htab.getD h 0 = firstSlot work lo n h) {h : Nat} (hh : h < 2304) :
    s.bend h = firstSlot work lo n (h + 1) := by
  rcases Nat.lt_or_eq_of_le (Nat.le_of_lt_succ hh) with hlt | rfl
  · exact (if_pos hlt).trans (hf _ (Nat.succ_lt_succ hlt))
  · exact (if_neg (Nat.lt_irrefl 2303)).trans (hn.trans (firstSlot_last work lo n).symm)

theorem firstSlot_le (work : Memory) (lo n : Nat) {h : Nat} (hh : h ≤ 2304) : firstSlot work lo n h ≤ n :=
  (sum_take_le _ hh).trans (firstSlot_last work lo n).le

/-! ### INDEX_BUILD (R202) -/

/-- `t` is `s` with the index of the positions from `IDX_LO` on: each bucket holds those of its hash, ascending. -/
structure Indexed (s t : State) : Prop where
  frame  : t = { s with cmp := { s.cmp with htab := t.cmp.htab, idx := t.cmp.idx, nidx := s.idxCount } }
  htab   : t.cmp.htab.length = 2304
  idx    : t.cmp.idx.length = 8707
  first  : ∀ h < 2304, t.cmp.htab.getD h 0 = firstSlot s.cmp.work s.idxLo s.idxCount h
  bucket : ∀ h < 2304, t.bucket h = bucketOf s.cmp.work s.idxLo s.idxCount h

theorem Indexed.nidx (hx : Indexed s t) : t.cmp.nidx = s.idxCount := congrArg (fun x => x.cmp.nidx) hx.frame

theorem Indexed.bend (hx : Indexed s t) {h : Nat} (hh : h < 2304) :
    t.bend h = firstSlot s.cmp.work s.idxLo s.idxCount (h + 1) := bend_of_slots hx.nidx hx.first hh

theorem indexBuild_indexed (hi : s.cmp.idx.length = 8707) (hload : s.cmp.loadEnd ≤ s.workSize) (hn : s.idxCount ≤ 8707) :
    ∃ t, indexBuild s = .ok () t ∧ Indexed s t := by
  obtain ⟨htab, idx, hb, hhtab, hidx, -, hfirst, hbucket⟩ := indexBuild_eq_ok hi hload hn
  exact ⟨_, hb, rfl, hhtab, hidx, hfirst, fun h hh => (bucket_of_slots rfl hfirst hh).trans (hbucket h hh)⟩

/-- INDEX_BUILD answers only inside its bounds (R76). -/
theorem bounds_of_indexBuild_eq_ok (hb : indexBuild s = .ok () t) : s.cmp.loadEnd ≤ s.workSize ∧ s.idxCount ≤ 8707 := by
  unfold indexBuild at hb
  split_ifs at hb with hload hn
  · cases hb
  · cases hb
  · exact ⟨Nat.le_of_not_lt hload, Nat.le_of_not_lt hn⟩

/-- Settles O37: the buckets' slots follow one another, and pass two fills each with its positions, ascending. -/
theorem indexBuildSortsThePositions : Obligations.IndexBuildSortsThePositions := by
  intro s hi hload hn
  obtain ⟨t, hb, hx⟩ := indexBuild_indexed hi hload hn
  refine ⟨t, hb, ?_, hx.htab, hx.idx, hx.nidx, fun h hh => ⟨?_, ?_, rfl, ?_⟩⟩
  · rw [hx.nidx]
    exact hx.frame
  · show t.cmp.htab.getD h 0 ≤ t.bend h
    rw [hx.first h hh, hx.bend hh]
    exact sum_take_le _ (Nat.le_succ h)
  · show t.bend h ≤ t.cmp.nidx
    rw [hx.bend hh, hx.nidx]
    exact firstSlot_le _ _ _ hh
  · rw [hx.nidx]
    exact hx.bucket h hh

/-- Settles O36: no hash reaches the last 8 buckets, so no position is placed in them. -/
theorem hashStaysInsideTheBuckets : Obligations.HashStaysInsideTheBuckets := by
  refine ⟨fun b0 b1 => ⟨rfl, hash_le b0 b1⟩, fun s t hi hb h hlo hh => ?_, rfl, rfl, rfl, rfl, rfl, rfl⟩
  obtain ⟨hload, hn⟩ := bounds_of_indexBuild_eq_ok hb
  obtain ⟨t', hb', hx⟩ := indexBuild_indexed hi hload hn
  obtain rfl : t = t' := (Res.ok.inj (hb.symm.trans hb')).2
  rw [hx.bucket h hh, bucketOf_eq_nil _ _ _ hlo]

end Sys2Proof.Machine
end

section
/-! SUPPORT. What FIND_MATCH finds in any state (R205 to R210), and what CHOOSE makes of it (R211 to R213). -/

namespace Sys2Proof.Machine

variable {P : Config.Params} {s t : State} {work : Memory} {p l floor : Nat} {m : Nat × Nat}

/-! ### The match found (R205, R206, R210) -/

/-- The match `m` at `p`: at most `l` bytes, each equal to the one `m.2 + 1` places before it, starting at or after `floor`. -/
structure Repeats (work : Memory) (p l floor : Nat) (m : Nat × Nat) : Prop where
  length : m.1 ≤ l
  start  : floor + (m.2 + 1) ≤ p
  bytes  : ∀ k < m.1, work.read (p + k) = work.read (p + k - (m.2 + 1))

theorem repeats_matchLen {q : Nat} (hlo : floor ≤ q) (hhi : q < p) : Repeats work p l floor (matchLen work q p l, p - q - 1) where
  length := matchLen_le _ _ _ _
  start := by
    dsimp only
    omega
  bytes k hk := by
    rw [← read_eq_of_lt_matchLen l q p k hk]
    exact congrArg _ (by dsimp only; omega)

/-- A candidate in the window keeps the best match a repetition, whether it wins or not. -/
theorem improve_repeats {q : Nat} (hlo : floor ≤ q) (hhi : q < p) (hm : 2 ≤ m.1 → Repeats work p l floor m) :
    2 ≤ (improve (matchLen work q p l) p q m).1 → Repeats work p l floor (improve (matchLen work q p l) p q m) := by
  unfold improve
  split_ifs
  · exact fun _ => repeats_matchLen hlo hhi
  · exact hm

theorem scanBucket_repeats (cands : List Nat) : ∀ m, (2 ≤ m.1 → Repeats work p l floor m) →
    2 ≤ (scanBucket work p l floor cands m).1 → Repeats work p l floor (scanBucket work p l floor cands m) := by
  induction cands with
  | nil => exact fun m hm => hm
  | cons q rest ih =>
    intro m hm
    rw [scanBucket]
    by_cases hlo : q < floor
    · rw [if_pos hlo]
      exact ih m hm
    by_cases hhi : p ≤ q
    · rw [if_neg hlo, if_pos hhi]
      exact hm
    have himp := improve_repeats (work := work) (l := l) (Nat.le_of_not_lt hlo) (Nat.lt_of_not_le hhi) hm
    rw [if_neg hlo, if_neg hhi]
    dsimp only
    split_ifs
    · exact himp
    · exact ih _ himp

/-- FIND_MATCH finds nothing, or a repetition inside the loaded data and the dictionary, at offsets below 256 if of 2 bytes. -/
theorem findMatch_repeats (hf : findMatch p s = .ok m) (h2 : 2 ≤ m.1) :
    Repeats s.cmp.work p (s.maxLenAt p) (s.floorAt p) m ∧ (m.1 = 2 → m.2 < 256) := by
  unfold findMatch at hf
  dsimp only at hf
  split_ifs at hf
  · rw [← Except.ok.inj hf] at h2
    exact absurd h2 (by decide)
  · rw [← Except.ok.inj hf] at h2 ⊢
    unfold lengthTwoRule at h2 ⊢
    split_ifs at h2 ⊢ with hfar
    · exact absurd h2 (by decide)
    · exact ⟨scanBucket_repeats _ _ (fun h => absurd h (by decide)) h2, fun hlen => Nat.lt_of_not_le fun hoff => hfar ⟨hlen, hoff⟩⟩

/-! ### CHOOSE (R213) -/

theorem choose_of_findMatch (hcur : s.cmp.cur < s.cmp.loadEnd) (hload : s.cmp.loadEnd ≤ s.workSize)
    (hm : findMatch s.cmp.cur s = .ok m) (h2 : m.1 < 2) : choose P s = .ok s.litAtCur (setMatch m s) := by
  rw [choose, if_neg (by omega), hm]
  exact if_neg (Nat.not_le.2 h2)

theorem choose_of_findMatch_next {n : Nat × Nat} (hcur : s.cmp.cur < s.cmp.loadEnd) (hload : s.cmp.loadEnd ≤ s.workSize)
    (hm : findMatch s.cmp.cur s = .ok m) (h2 : 2 ≤ m.1) (hn : findMatch (s.cmp.cur + 1) s = .ok n) :
    choose P s = .ok (if P.lazyDefer m.1 m.2 n.1 n.2 then s.litAtCur else (.copy m.1 m.2, m.1))
      (setNextMatch n (setMatch m s)) := by
  have hn : findMatch ((setMatch m s).cmp.cur + 1) (setMatch m s) = .ok n := hn
  rw [choose, if_neg (by omega), hm, orFault, Res.bind_ok]
  dsimp only
  rw [if_pos h2, hn, orFault, Res.bind_ok]
  split_ifs
  · rfl
  · rfl

/-- CHOOSE decides on the literal at the cursor or on the copy of the match FIND_MATCH finds there, in the match registers. -/
theorem choose_token {c : Token × Nat} (h : choose P s = .ok c t) : SameButMatch s t ∧
    (c = s.litAtCur ∨ ∃ m, findMatch s.cmp.cur s = .ok m ∧ 2 ≤ m.1 ∧ c = (.copy m.1 m.2, m.1)) := by
  obtain ⟨-, -, m, hm, ⟨-, rfl, rfl⟩ | ⟨h2, n, -, rfl, rfl⟩⟩ := choose_eq_ok h
  · exact ⟨rfl, .inl rfl⟩
  · refine ⟨rfl, ?_⟩
    split_ifs
    · exact .inl rfl
    · exact .inr ⟨m, hm, h2, rfl⟩

theorem standard_lazyDefer (l0 o0 l1 o1 : Nat) :
    standard.lazyDefer l0 o0 l1 o1 = true ↔ l0 < l1 ∨ (l1 = l0 ∧ o1 ≤ 128 ∧ 128 < o0) := by
  simp [standard, lazyDefer, and_assoc]

/-- Settles O38: a copy is of the match FIND_MATCH found, which repeats bytes of the window, and the decision is that of R213. -/
theorem chooseReproducesTheInput : Obligations.ChooseReproducesTheInput := by
  refine ⟨fun P s t tok n h => ?_, fun P s m hcur hload hm => ⟨choose_of_findMatch hcur hload hm, fun h2 n hn => ?_⟩,
    standard_lazyDefer⟩
  · obtain ⟨hframe, hc | ⟨m, hm, h2, hc⟩⟩ := choose_token h
    · cases hc
      refine ⟨fun b hb => ?_, nofun, hframe⟩
      cases hb
      exact ⟨rfl, rfl⟩
    · cases hc
      refine ⟨nofun, fun len off hcopy => ?_, hframe⟩
      cases hcopy
      obtain ⟨⟨hlen, hstart, hbytes⟩, htwo⟩ := findMatch_repeats hm h2
      have hmax : s.maxLenAt s.cmp.cur = min 516 (s.cmp.loadEnd - s.cmp.cur) := rfl
      have hfloor : s.floorAt s.cmp.cur = max s.loValid (s.cmp.cur - s.dsize) := rfl
      exact ⟨rfl, h2, by omega, by omega, by omega, by omega, by omega, htwo, hbytes⟩
  · exact choose_of_findMatch_next hcur hload hm h2 hn

/-! ### One bucket and one round are enough (R204, R215) -/

/-- Settles O39: a candidate of another bucket matches fewer than 2 bytes, so the bucket's scan makes the choice among all. -/
theorem findMatchIsExhaustive : Obligations.FindMatchIsExhaustive := fun _ _ hinv hrun hcont hs hlo hhi =>
  hcont.findMatch ⟨hinv.bounded, hrun, hinv.cmp hrun⟩ hs hlo hhi

/-- Settles O40: `WORK` holds the input's bytes around the cursor, the same ones wherever the round begins. -/
theorem findMatchIsThatOfTheWholeInput : Obligations.FindMatchIsThatOfTheWholeInput := fun _ _ hinv hrun hcont hs hcur hp hhi =>
  hcont.findMatch_eq_archMatch ⟨hinv.bounded, hrun, hinv.cmp hrun⟩ hs hcur (by omega) (by omega) hhi

end Sys2Proof.Machine
end

section
/-! SUPPORT. The tokens of TOKENS(x, N) executed one after the other yield the input (R240, R241, R272). -/

namespace Sys2Proof.Machine

/-- From any position on the tokens append the rest of the input to the bytes before it. -/
theorem foldl_archTokens (P : Config.Params) (dsize : Nat) (x : Memory) (n count : Nat) : ∀ p, p ≤ n → n ≤ p + count →
    (archTokens P dsize x n p count).foldl (fun y t => y.bind (archExec t)) (some (loadBytes x 0 p)) = some (loadBytes x 0 n) := by
  induction count with
  | zero =>
    intro p hp hn
    obtain rfl : p = n := Nat.le_antisymm hp hn
    rfl
  | succ count ih =>
    intro p hp hn
    rcases hp.eq_or_lt with rfl | hlt
    · rw [archTokens_of_le P dsize x (Nat.le_refl p)]
      rfl
    · obtain ⟨hpos, -, hroom, hexec⟩ := covers_archToken P dsize x hlt
      rw [archTokens, if_pos hlt]
      dsimp only
      rw [List.foldl_cons, Option.bind_some, hexec]
      exact ih _ hroom (by omega)

/-- Settles O56: each token appends the next bytes of the input, and the last one ends where the input does. -/
theorem tokensReproduceTheInput : Obligations.TokensReproduceTheInput := fun P dsize x n =>
  foldl_archTokens P dsize x n n 0 (Nat.zero_le n) (Nat.le_add_left n 0)

end Sys2Proof.Machine
end

section
/-! SUPPORT. The size of the stream (R242): with `T_PKWARE` no token costs more than 9 bits for each byte it covers, and END costs 16. -/

namespace Sys2Proof.Machine

variable {wsize : Byte}

theorem length_encodeLength (T : Config.CodeTables) (c e : Nat) :
    (encodeLength T c e).length = 1 + lenBits T c + lenExtra T c := by
  rw [encodeLength, List.length_cons, List.length_append, length_bitsOfNat, length_bitsOfNat, Nat.add_comm, Nat.add_assoc]

/-- In `T_PKWARE` the codeword of a length class and an offset codeword of 14 bits, the longest there is, cost at most 9 bits for each
byte of the shortest copy of the class. -/
theorem lenClass_cost_tPkware : ∀ c < 16, 1 + lenBits tPkware c + lenExtra tPkware c + 14 ≤ 9 * (lenBase tPkware c + 2) := by decide

theorem lowWidth_le (hw : legalWsize wsize = true) (len : Nat) : lowWidth len wsize ≤ 6 := by
  have hmem := lowWidth_mem hw len
  simp only [List.mem_cons, List.not_mem_nil, or_false] at hmem
  omega

/-- A copy costs at most 9 bits a byte. -/
theorem length_copy_bits_le (hw : legalWsize wsize = true) {len off : Nat} (he : (Token.copy len off).encodable wsize = true) :
    ((Token.copy len off).bits tPkware wsize).length ≤ 9 * len := by
  obtain ⟨h2, hsym, hoff⟩ := of_copy_encodable he
  obtain ⟨hc, hbase, -⟩ := lenClassOfSym_spec (T := tPkware) encoderTables_standard (hsym.trans (Nat.lt_succ_self 517))
  have hcost := lenClass_cost_tPkware _ hc
  have hdist := (distBits_tPkware (off / 2 ^ lowWidth len wsize) (Nat.div_lt_of_lt_mul (Nat.mul_comm 64 _ ▸ hoff))).2
  have hlow := lowWidth_le hw len
  rw [Token.bits, List.length_append, List.length_append, length_encodeLength, length_bitsOfNat, length_bitsOfNat]
  omega

variable (P : Config.Params) (x : Memory)

/-- The token of R240 costs at most 9 bits for each byte it covers. -/
theorem length_archToken_bits_le (hw : legalWsize wsize = true) (n p : Nat) :
    ((archToken P (64 * 2 ^ wsize.toNat) x n p).1.bits tPkware wsize).length ≤ 9 * (archToken P (64 * 2 ^ wsize.toNat) x n p).2 := by
  rcases archToken_cases P (64 * 2 ^ wsize.toNat) x n p with h | ⟨m, h2, hm, h⟩
  · rw [h]
    exact Nat.le_refl 9
  · rw [h]
    exact length_copy_bits_le hw (hm.encodable h2)

/-- From any position on the tokens and END cost at most 9 bits for each byte of the rest of the input, and 16. -/
theorem length_programBits_archTokens_le (hw : legalWsize wsize = true) (n count : Nat) : ∀ p,
    (programBits tPkware wsize (archTokens P (64 * 2 ^ wsize.toNat) x n p count)).length ≤ 9 * (n - p) + 16 := by
  induction count with
  | zero => exact fun p => Nat.le_add_left 16 _
  | succ count ih =>
    intro p
    rw [archTokens]
    split_ifs with hp
    · have hroom := (covers_archToken P (64 * 2 ^ wsize.toNat) x hp).room
      have hbits := length_archToken_bits_le P x hw n p
      have hrest := ih (p + (archToken P (64 * 2 ^ wsize.toNat) x n p).2)
      dsimp only
      rw [programBits, List.length_append]
      omega
    · exact Nat.le_add_left 16 _

/-- Settles O58: the two header bytes, and the tokens and END packed. -/
theorem streamSizeBound : Obligations.StreamSizeBound := by
  intro P wsize x n hT hw
  have hbits := length_programBits_archTokens_le P x hw n n 0
  rw [archStream, hT, List.length_cons, List.length_cons, length_packAll]
  omega

end Sys2Proof.Machine
end

section
/-! SUPPORT. Runs (R298): where every step of a running command ends it or leaves less to do, the command completes. -/

namespace Sys2Proof.Machine

variable {s t : State}

/-- The command has ended (R297). -/
def Ended (s : State) : Prop := s.busy = false ∧ statusDone s.cr.status = true

theorem ended_fail (P : Config.Params) (e : Engine) (c : Cause) (s : State) : Ended (s.fail P e c) :=
  ⟨fail_busy P e c s, (congrArg statusDone (fail_cr_status P e c s)).trans (statusDone_fail _ c)⟩

theorem ended_complete (e : Engine) (s : State) : Ended (s.complete e) :=
  ⟨complete_busy e s, (congrArg statusDone (complete_cr_status e s)).trans statusDone_ok⟩

/-- The command has ended, or goes on with less to do than in `s`, `rank` being what there is to do. -/
def Approaches (rank : State → Nat) (s t : State) : Prop := Ended t ∨ t.busy = true ∧ rank t < rank s

theorem stepN_succ (h : step s = .next t) (n : Nat) : stepN (n + 1) s = stepN n t := by
  rw [stepN, h]

/-- `CMD` of a running command is 1 or 2, so its step answers a next state. -/
theorem Inv.exists_next (h : Inv standard s) (hb : s.busy = true) : ∃ t, Machine.step s = .next t :=
  stepAnswersANextState s h fun h3 => by
    rcases h.busyCmd hb with hc | hc
    · exact absurd (hc.symm.trans h3) (by decide)
    · exact absurd (hc.symm.trans h3) (by decide)

/-- A run from a state of `B` ends the command where a step that does not end it leads to a state of `B` of less rank. -/
theorem exists_stepN_ended {B : State → Prop} {rank : State → Nat} (hinv : ∀ s, B s → Inv standard s ∧ s.busy = true)
    (hkeep : ∀ s t, B s → step s = .next t → t.busy = true → B t) (hap : ∀ s, B s → NextHolds (Approaches rank s) (step s))
    (s : State) (hs : B s) : ∃ n t, stepN n s = some t ∧ Ended t := by
  induction hr : rank s using Nat.strong_induction_on generalizing s with
  | _ r ih =>
    obtain ⟨hi, hb⟩ := hinv s hs
    obtain ⟨t, hst⟩ := hi.exists_next hb
    have ht := hap s hs
    rw [hst] at ht
    rcases ht with he | ⟨hbt, hlt⟩
    · exact ⟨1, t, stepN_succ hst 0, he⟩
    · obtain ⟨n, u, hn, hu⟩ := ih (rank t) (hr ▸ hlt) t (hkeep s t hs hst hbt) rfl
      exact ⟨n + 1, u, (stepN_succ hst n).trans hn, hu⟩

/-! ### The engine that runs goes on running -/

theorem CmpBusy.of_step (h : CmpBusy standard s) (hst : step s = .next t) (hb : t.busy = true) : CmpBusy standard t := by
  have hkept := cmpKept_step h.running
  rw [hst] at hkept
  have hrun : t.running .cmp := ⟨hb, (hkept.command.cmd hb).trans h.running.2⟩
  have hinv := stepKeepsTheInvariant s t h.inv hst
  exact ⟨hinv.bounded, hrun, hinv.cmp hrun⟩

theorem DecBusy.of_step (h : DecBusy standard s) (hst : step s = .next t) (hb : t.busy = true) : DecBusy standard t := by
  have hkept := decStepKept_step h.running
  rw [hst] at hkept
  have hrun : t.running .dec := ⟨hb, (hkept.command.cmd hb).trans h.running.2⟩
  have hinv := stepKeepsTheInvariant s t h.inv hst
  exact ⟨hinv.bounded, hrun, hinv.dec hrun⟩

end Sys2Proof.Machine
end

section
/-! SUPPORT. Every step of CMP ends the command or brings its end nearer (R231, R235): a round pulls input or is the last one, and inside
a round the states follow one another, C_EMIT over the bytes to scan. -/

namespace Sys2Proof.Machine

variable {s t : State}

/-- What CMP has to do before its next pull: `C_ANALYZE`, a token at most for each byte up to `SCAN_END`, which has 14 bits (R35), and
`C_SHIFT` or `C_TERMINATE`. -/
def CmpEngine.roundRank (c : CmpEngine) : Nat :=
  match c.cstate with
  | .idle => 0
  | .staging => 0
  | .analyze => 2 ^ 14 + 2
  | .emit => c.scanEnd - c.cur + 2
  | .shift => 1
  | .terminate => 1
  | .done => 0
  | .fail => 0

/-- What CMP has to do: a pull at most for each byte left of the input and one more, and a round after each of them. -/
def State.cmpRank (s : State) : Nat :=
  (if s.cmp.ended then 0 else s.tc.inLen - s.tc.inCur + 1) * (2 ^ 14 + 3) + s.cmp.roundRank

/-- Where nothing is pulled the round alone counts. -/
theorem approaches_of_roundRank (hb : t.busy = true) (hlen : t.tc.inLen = s.tc.inLen) (hcur : t.tc.inCur = s.tc.inCur)
    (he : t.cmp.ended = s.cmp.ended) (hr : t.cmp.roundRank < s.cmp.roundRank) : Approaches State.cmpRank s t := by
  refine .inr ⟨hb, ?_⟩
  rw [State.cmpRank, State.cmpRank, hlen, hcur, he]
  exact Nat.add_lt_add_left hr _

/-- `C_STAGING`: 4096 bytes are pulled, or the input has ended (R233). -/
theorem CmpBusy.approaches_stage (h : CmpBusy standard s) (hs : s.cmp.cstate = .staging) :
    (Machine.stage s).Holds (fun _ => Approaches State.cmpRank s) (Approaches State.cmpRank s) := by
  have hended := h.cmp.staging hs
  have hn : pullCount s 4096 ≤ s.tc.inLen - s.tc.inCur := (pullCount_le s 4096).2
  rw [stage_eq hended]
  refine .inr ⟨h.running.1, ?_⟩
  rw [State.cmpRank, State.cmpRank, hended, CmpEngine.roundRank, CmpEngine.roundRank, hs]
  dsimp only
  by_cases hshort : pullCount s 4096 < 4096
  · rw [if_pos (decide_eq_true hshort), if_neg (by decide)]
    omega
  · rw [if_neg (mt of_decide_eq_true hshort), if_neg (by decide)]
    omega

theorem CmpBusy.approaches_analyze (h : CmpBusy standard s) (hs : s.cmp.cstate = .analyze) :
    (Machine.analyze s).Holds (fun _ => Approaches State.cmpRank s) (Approaches State.cmpRank s) := by
  obtain ⟨htab, idx, he, -⟩ := h.analyze_eq_ok hs
  have hscan := h.bounded.widths.scanEnd
  rw [he]
  refine approaches_of_roundRank h.running.1 rfl rfl rfl ?_
  rw [CmpEngine.roundRank, CmpEngine.roundRank, hs]
  dsimp only
  omega

/-- `C_EMIT`: a token covers a byte, and after the last one the round ends (R231, R235). -/
theorem CmpBusy.approaches_emitState (h : CmpBusy standard s) (hs : s.cmp.cstate = .emit) :
    (Machine.emitState standard s).Holds (fun _ => Approaches State.cmpRank s) (Approaches State.cmpRank s) := by
  rcases h.emitState_cases encoderTables_standard hs with ⟨c, u, hcur, hu, ⟨-, he⟩ | ⟨-, he⟩⟩ | ⟨-, he⟩ <;> rw [he]
  · have hcov := hu.covers
    show Approaches State.cmpRank s u
    rw [hu.frame]
    refine approaches_of_roundRank h.running.1 rfl rfl rfl ?_
    rw [CmpEngine.roundRank, CmpEngine.roundRank, hs]
    dsimp only
    omega
  · exact .inl (ended_fail _ _ _ _)
  · refine approaches_of_roundRank h.running.1 rfl rfl rfl ?_
    rw [CmpEngine.roundRank, CmpEngine.roundRank, hs]
    dsimp only [State.setCstate]
    cases s.cmp.ended <;> exact Nat.le_add_left 2 _

theorem CmpBusy.approaches_shift (h : CmpBusy standard s) (hs : s.cmp.cstate = .shift) :
    (Machine.shift s).Holds (fun _ => Approaches State.cmpRank s) (Approaches State.cmpRank s) := by
  unfold Machine.shift
  split_ifs
  · trivial
  · refine approaches_of_roundRank h.running.1 rfl rfl rfl ?_
    rw [CmpEngine.roundRank, CmpEngine.roundRank, hs]
    exact Nat.zero_lt_one

theorem CmpBusy.approaches_terminate (h : CmpBusy standard s) :
    (Machine.terminate standard s).Holds (fun _ => Approaches State.cmpRank s) (Approaches State.cmpRank s) := by
  obtain ⟨u, -, ⟨-, he⟩ | ⟨-, he⟩⟩ := h.terminate_cases encoderTables_standard <;> rw [he]
  · exact .inl (ended_complete _ _)
  · exact .inl (ended_fail _ _ _ _)

theorem CmpBusy.approaches_step (h : CmpBusy standard s) : NextHolds (Approaches State.cmpRank s) (step s) := by
  rw [step_cmp h.running]
  refine Res.Holds.outcome ?_
  unfold Machine.cmpStep
  cases hs : s.cmp.cstate with
  | idle => trivial
  | staging => exact h.approaches_stage hs
  | analyze => exact h.approaches_analyze hs
  | emit => exact h.approaches_emitState hs
  | shift => exact h.approaches_shift hs
  | terminate => exact h.approaches_terminate
  | done => trivial
  | fail => trivial

end Sys2Proof.Machine
end

section
/-! SUPPORT. Every step of DEC ends the command or brings its end nearer (R261, R263): a row takes bits of its stream, of which there are
finitely many, and between two rows there is one flush at most. -/

namespace Sys2Proof.Machine

variable {s t : State} {m n k : Nat}

/-- DEC in a running command, with fewer than `n` bits to read. -/
structure Reading (n : Nat) (s : State) : Prop where
  reader : ReaderOk s
  busy   : s.busy = true
  fewer  : s.restBits.length < n

/-- The command has ended, or goes on with fewer than `n` bits to read. -/
def EndedOrReading (n : Nat) (s : State) : Prop := Ended s ∨ s.busy = true ∧ s.restBits.length < n

theorem Reading.mono (h : Reading m s) (hmn : m ≤ n) : Reading n s := { h with fewer := h.fewer.trans_le hmn }

theorem Reading.setDstate (h : Reading n s) (d : DState) : Reading n (s.setDstate d) := ⟨{ h.reader with }, h.busy, h.fewer⟩

theorem SameButReader.busy (h : SameButReader s t) : t.busy = s.busy :=
  congrArg (fun c : CommandRegs => statusBusy c.status) (congrArg (·.cr) h : t.cr = s.cr)

/-- Taking bits that are there leaves fewer. -/
theorem TookBits.reading (ht : TookBits k s t) (h : Reading (n + k) s) (hk : k ≤ s.restBits.length) : Reading n t where
  reader := ht.reader
  busy := ht.frame.busy.trans h.busy
  fewer := by
    have hlt := h.fewer
    rw [ht.rest, List.length_drop]
    omega

/-! ### Taking bits (R153 to R155, R180, R181) -/

theorem Reading.peek {E : State → Prop} (h : Reading n s) : (peek k s).Holds (fun _ t => Reading n t) E := by
  by_cases hk : 1 ≤ k ∧ k ≤ 8
  · obtain ⟨t, he, ht⟩ := h.reader.peek hk.1 hk.2
    rw [he]
    exact ht.reading h (Nat.zero_le _)
  · rw [Machine.peek, if_pos (by omega)]
    trivial

/-- CONSUME takes a bit or more, or ends the command. -/
theorem Reading.consume (h : Reading (n + 1) s) :
    (consume standard k s).Holds (fun _ t => Reading n t) (EndedOrReading m) := by
  by_cases hk : 1 ≤ k ∧ k ≤ 8
  · rcases h.reader.consume standard hk.1 hk.2 with ⟨hlen, t, he, ht⟩ | ⟨-, t, he, -⟩ <;> rw [he]
    · exact ht.reading (h.mono (Nat.add_le_add_left hk.1 n)) hlen
    · exact .inl (ended_fail _ _ _ _)
  · rw [Machine.consume, if_pos (by omega)]
    trivial

theorem Reading.readBits (h : Reading (n + 1) s) :
    (readBits standard k s).Holds (fun _ t => Reading n t) (EndedOrReading m) :=
  h.peek.bind fun _ _ ht => ht.consume.bind fun _ _ hu => hu

theorem Reading.readExtra (h : Reading n s) :
    (readExtra standard k s).Holds (fun _ t => Reading n t) (EndedOrReading m) := by
  unfold Machine.readExtra
  split_ifs
  · exact h
  · exact (h.mono (Nat.le_succ n)).readBits

theorem Reading.decodeLen (h : Reading (n + 1) s) :
    (decodeLen standard s).Holds (fun _ t => Reading n t) (EndedOrReading m) :=
  h.peek.bind fun _ _ ht => ht.consume.bind fun _ _ hu => hu.readExtra.bind fun _ _ hv => hv

theorem Reading.decodeOff (h : Reading (n + 1) s) :
    (decodeOff standard k s).Holds (fun _ t => Reading n t) (EndedOrReading m) :=
  h.peek.bind fun _ _ ht => ht.consume.bind fun _ _ hu => (hu.mono (Nat.le_succ n)).readBits.bind fun _ _ hv => hv

/-! ### The rows, which take no bits (R262 to R268) -/

theorem Reading.storeLiteral (h : Reading n s) (b : Byte) : NextHolds (EndedOrReading n) (storeLiteral standard b s) := by
  unfold Machine.storeLiteral
  split_ifs
  · trivial
  · exact .inr ⟨h.busy, h.fewer⟩

theorem Reading.copyFromOffset (h : Reading n s) (c : Nat) (low : Low) :
    NextHolds (EndedOrReading n) (copyFromOffset standard c low s) := by
  unfold Machine.copyFromOffset copyExec
  dsimp only
  split_ifs
  · exact .inl (ended_fail _ _ _ _)
  · trivial
  · exact .inr ⟨h.busy, h.fewer⟩

theorem Reading.checkHeader (h : Reading n s) (w : Byte) : NextHolds (EndedOrReading n) (checkHeader standard w s) := by
  unfold Machine.checkHeader
  dsimp only
  split_ifs
  · exact .inl (ended_fail _ _ _ _)
  · exact .inl (ended_fail _ _ _ _)
  · exact .inr ⟨h.busy, h.fewer⟩

/-! ### The fetches, and the rows they answer (R262 to R265) -/

theorem Reading.fetchLiteral (h : Reading (n + 1) s) :
    (fetchLiteral standard s).Holds (fun i t => NextHolds (EndedOrReading n) (exec i t)) (EndedOrReading n) :=
  h.readBits.bind fun _ _ ht => ht.storeLiteral _

theorem Reading.fetchLength (h : Reading (n + 1) s) :
    (fetchLength standard s).Holds (fun i t => NextHolds (EndedOrReading n) (exec i t)) (EndedOrReading n) := by
  refine h.decodeLen.bind ?_
  rintro ⟨c, e⟩ t ht
  dsimp only
  cases hi : lenInstr standard.tables c e with
  | none => trivial
  | some i =>
    show NextHolds (EndedOrReading n) (exec i t)
    rcases lenInstr_eq_some hi with ⟨-, rfl⟩ | ⟨-, -, hexec⟩
    · exact .inr ⟨ht.busy, ht.fewer⟩
    · rw [hexec]
      exact .inr ⟨ht.busy, ht.fewer⟩

theorem Reading.fetchOffset (h : Reading (n + 1) s) :
    (fetchOffset standard s).Holds (fun i t => NextHolds (EndedOrReading n) (exec i t)) (EndedOrReading n) := by
  refine h.decodeOff.bind ?_
  rintro ⟨c, v⟩ t ht
  dsimp only
  cases hi : (lowOf (lowWidth t.dec.tLen t.hdr.wsize) v).bind (distInstr c) with
  | none => trivial
  | some i =>
    obtain ⟨low, -, hrow⟩ := Option.bind_eq_some_iff.1 hi
    show NextHolds (EndedOrReading n) (exec i t)
    rw [(distInstr_eq_some hrow).2]
    exact ht.copyFromOffset c low

theorem Reading.fetchToken (h : Reading (n + 1) s) :
    (fetchToken standard s).Holds (fun i t => NextHolds (EndedOrReading n) (exec i t)) (EndedOrReading n) := by
  refine h.readBits.bind fun sel t ht => ?_
  have ht := ht.mono (Nat.le_succ n)
  split_ifs
  · exact (ht.setDstate .literal).fetchLiteral
  · exact (ht.setDstate .copy).fetchLength

/-- A header byte is eight bits. -/
theorem TookBytes.reading {b : Byte} (ht : TookBytes [b] s t) (h : Reading (n + 1) s) : Reading n t where
  reader := ht.reader
  busy := ht.frame.busy.trans h.busy
  fewer := by
    have hlt := h.fewer
    rw [length_restBits, ht.rest, List.length_append, List.length_singleton, ← ht.nbits] at hlt
    rw [length_restBits]
    omega

theorem Reading.fetchHeader (h : Reading (n + 1) s) :
    (fetchHeader standard s).Holds (fun i t => NextHolds (EndedOrReading n) (exec i t)) (EndedOrReading n) := by
  unfold Machine.fetchHeader
  rcases h.reader.nextByte with ⟨-, t, he, -⟩ | ⟨b, t, he, ht⟩ <;> rw [he, Res.bind_ok]
  · exact .inl (ended_fail _ _ _ _)
  · have ht := ht.reading h
    show NextHolds (EndedOrReading n) (exec (if t.dec.hdrByte0.isNone then .hdr0 b else .hdr1 b) t)
    split_ifs
    · exact .inr ⟨ht.busy, ht.fewer⟩
    · exact ht.checkHeader b

/-! ### The step of DEC -/

/-- What DEC has to do: a row and a flush at most for each bit to be read, and the flush it stands before. -/
def State.decRank (s : State) : Nat := 2 * s.restBits.length + (if s.dec.dstate = .flush then 1 else 0)

/-- A row takes a bit or more, which counts more than the flush after it. -/
theorem EndedOrReading.approaches (h : EndedOrReading s.restBits.length t) : Approaches State.decRank s t := by
  refine h.imp_right fun ⟨hb, hlt⟩ => ⟨hb, ?_⟩
  unfold State.decRank
  split_ifs <;> omega

theorem approaches_of_fetch {r : Res Instr}
    (h : r.Holds (fun i t => NextHolds (EndedOrReading s.restBits.length) (exec i t)) (EndedOrReading s.restBits.length)) :
    r.fetched.Runs (Approaches State.decRank s) := by
  cases r with
  | ok i t => exact NextHolds.mono h fun _ => EndedOrReading.approaches
  | stop o => exact NextHolds.mono h fun _ => EndedOrReading.approaches

/-- FLUSH_IF_FULL reads nothing, and a row comes next (R270). -/
theorem approaches_flushIfFull (hb : s.busy = true) (hd : s.dec.dstate = .flush) :
    (flushIfFull standard s).Holds (fun _ => Approaches State.decRank s) (Approaches State.decRank s) := by
  have hrank : ∀ t : State, t.busy = s.busy → t.restBits = s.restBits → t.dec.dstate = .token → Approaches State.decRank s t :=
    fun t hbt hrest hdt => .inr ⟨hbt.trans hb, by
      rw [State.decRank, State.decRank, hrest, hd, hdt, if_pos rfl, if_neg (by decide)]
      exact Nat.lt_succ_self _⟩
  unfold flushIfFull
  split_ifs
  · exact hrank _ rfl rfl rfl
  · trivial
  · refine (push_state _ _ _ _ _ _).bind fun _ t ht => ?_
    rw [ht]
    split_ifs
    · exact .inl (ended_fail _ _ _ _)
    · exact hrank _ rfl rfl rfl

/-- FINAL_FLUSH ends the command (R271). -/
theorem ended_finalFlush (s : State) : (finalFlush standard s).Holds (fun _ => Ended) Ended := by
  unfold finalFlush
  split_ifs
  · exact ended_complete _ _
  · refine Res.Holds.bind (Q := fun _ _ => True) ?_ fun _ t _ => ?_
    · exact (push_state _ _ _ _ _ _).mono fun _ _ _ => trivial
    · split_ifs
      · exact ended_fail _ _ _ _
      · exact ended_complete _ _

theorem DecBusy.approaches_step (h : DecBusy standard s) : NextHolds (Approaches State.decRank s) (step s) := by
  have hread : Reading (s.restBits.length + 1) s := ⟨h.dec.reader, h.running.1, Nat.lt_succ_self _⟩
  refine nextHolds_step_dec h.running ?_
  unfold Machine.decFetch
  cases hd : s.dec.dstate with
  | idle => trivial
  | header => exact approaches_of_fetch hread.fetchHeader
  | token => exact approaches_of_fetch hread.fetchToken
  | literal => exact approaches_of_fetch hread.fetchLiteral
  | copy =>
    dsimp only
    split_ifs
    · exact approaches_of_fetch hread.fetchOffset
    · exact approaches_of_fetch hread.fetchLength
  | flush => exact (approaches_flushIfFull h.running.1 hd).outcome
  | eof => exact (ended_finalFlush s).outcome.mono fun _ => Or.inl
  | done => trivial
  | fail => trivial

/-! ### Both engines (R298) -/

/-- Settles O55: either engine's steps bring the end of its command nearer. -/
theorem aCommandAlwaysCompletes : Obligations.ACommandAlwaysCompletes := by
  intro s hs hb
  rcases hs.cases with hi | hc | hd
  · exact absurd (hi.symm.trans hb) (by decide)
  · exact exists_stepN_ended (fun _ h => ⟨h.inv, h.running.1⟩) (fun _ _ h => h.of_step) (fun _ h => h.approaches_step) s hc
  · exact exists_stepN_ended (fun _ h => ⟨h.inv, h.running.1⟩) (fun _ _ h => h.of_step) (fun _ h => h.approaches_step) s hd

end Sys2Proof.Machine
end

section
/-! SUPPORT. What LIT, HDR0 and an offset row before the start of the output do (R262, R264, R267), and the two flushes of DEC by what
fits (R270, R271). -/

namespace Sys2Proof.Machine

variable {P : Config.Params} {s : State}

/-! ### The rows -/

/-- With the cursor inside `WIN`, LIT stores its byte there (R264). -/
theorem storeLiteral_eq (b : Byte) (h : s.dec.wpos < P.decWinSize) :
    storeLiteral P b s = .next { s with dec := { s.dec with
      win := s.dec.win.write s.dec.wpos b
      wpos := s.dec.wpos + 1
      hist := min (s.dec.hist + 1) Config.decHist
      dstate := .flush } } :=
  if_neg (Nat.not_le.2 h)

/-- Settles O21: one byte of `WIN` is written, at the cursor. -/
theorem litStoresAtTheCursor : Obligations.LitStoresAtTheCursor := by
  intro b s w hw
  exact ⟨_, storeLiteral_eq b hw, Memory.read_write w s.dec.wpos b, rfl⟩

/-- An offset beyond the history takes the exception before anything is copied (R267). -/
theorem copyFromOffset_beforeStart {c : Nat} {low : Low} (h : s.dec.hist < offsetOf c low + 1) :
    copyFromOffset P c low s =
      .next ({ s with dec := { s.dec with tOff := offsetOf c low, offNext := false } }.fail P .dec .distBeforeStart) :=
  if_pos h

/-- Settles O24: the exception is taken in a state that differs from the row's in `T_OFF` and `offNext` only. -/
theorem offsetRowBeforeTheStartRaises : Obligations.OffsetRowBeforeTheStartRaises := by
  intro i c low s hi hh
  exact ⟨_, (exec_of_distParts hi s).trans (copyFromOffset_beforeStart hh), rfl, rfl, rfl⟩

/-- Settles O26: HDR0 writes one field. -/
theorem headerByteZeroIsTaken : Obligations.HeaderByteZeroIsTaken :=
  fun _ _ => rfl

/-! ### Pushes out of `WIN` -/

/-- `s` after `n` bytes of `WIN` were pushed, from `a` on (R270, R271). -/
def State.winPushed (a n : Nat) (s : State) : State :=
  { s with
    tc := { s.tc with outCur := s.tc.outCur + n }
    hostOut := copyCells s.dec.win a s.hostOut s.tc.outCur n
    xfers := .push n :: s.xfers }

/-- `s` after the bytes of `WIN` from `a` to the cursor slid down by `a` (R270). -/
def State.winSlid (a : Nat) (s : State) : State :=
  { s with dec := { s.dec with
    win := moveBytes s.dec.win a 0 (s.dec.wpos - a)
    wpos := s.dec.wpos - a
    dstate := .token } }

@[simp] theorem winPushed_hostOut (a n : Nat) (s : State) :
    (s.winPushed a n).hostOut = copyCells s.dec.win a s.hostOut s.tc.outCur n := rfl

@[simp] theorem winPushed_dec (a n : Nat) (s : State) : (s.winPushed a n).dec = s.dec := rfl

@[simp] theorem winPushed_tc_outCur (a n : Nat) (s : State) : (s.winPushed a n).tc.outCur = s.tc.outCur + n := rfl

@[simp] theorem winSlid_tc (a : Nat) (s : State) : (s.winSlid a).tc = s.tc := rfl

@[simp] theorem winSlid_hostOut (a : Nat) (s : State) : (s.winSlid a).hostOut = s.hostOut := rfl

@[simp] theorem winSlid_dec_win (a : Nat) (s : State) :
    (s.winSlid a).dec.win = moveBytes s.dec.win a 0 (s.dec.wpos - a) := rfl

/-- A push out of `WIN` changes nothing but the output. -/
theorem winPushed_frame (a n : Nat) (s : State) : s.winPushed a n = { s with
    tc := { s.tc with outCur := s.tc.outCur + n }
    hostOut := (s.winPushed a n).hostOut
    xfers := .push n :: s.xfers } := rfl

/-- A push and the slide after it change nothing but the output, `WIN`, the cursor and the FSM state. -/
theorem winSlid_winPushed_frame (a n : Nat) (s : State) : (s.winPushed a n).winSlid a = { s with
    tc := { s.tc with outCur := s.tc.outCur + n }
    dec := { s.dec with win := ((s.winPushed a n).winSlid a).dec.win, wpos := s.dec.wpos - a, dstate := .token }
    hostOut := ((s.winPushed a n).winSlid a).hostOut
    xfers := .push n :: s.xfers } := rfl

theorem read_winPushed_hostOut (w : s.hostOut.wf = true) (a n x : Nat) :
    (s.winPushed a n).hostOut.read x =
      if s.tc.outCur ≤ x ∧ x < s.tc.outCur + n then s.dec.win.read (a + (x - s.tc.outCur)) else s.hostOut.read x := by
  rw [winPushed_hostOut, (copyCells_spec s.dec.win n a s.hostOut s.tc.outCur w).2]

theorem read_winSlid_win (w : s.dec.win.wf = true) (a x : Nat) :
    (s.winSlid a).dec.win.read x = if x < s.dec.wpos - a then s.dec.win.read (x + a) else s.dec.win.read x := by
  have h := read_moveBytes_down a (s.dec.wpos - a) s.dec.win 0 w x
  rw [Nat.zero_add, Nat.zero_add] at h
  rw [winSlid_dec_win, h]
  simp only [Nat.zero_le, true_and]

section Push

variable {a n : Nat} (f : State → Res Unit) (hs : s.tc.stop = false) (hin : a + n ≤ P.decWinSize)
include hs hin

/-- A push that fits lets the flush go on (R292). -/
theorem pushWin_of_fits (hfit : s.tc.outCur + n ≤ s.tc.outLimit) :
    ((push s.dec.win P.decWinSize .winRange a n s).bind fun _ t => if t.tc.stop then raise P .dec .push t else f t) =
      f (s.winPushed a n) := by
  unfold push
  rw [if_neg (by simp [hs]), if_neg (Nat.not_lt.2 hin), if_neg (Nat.not_lt.2 hfit), Res.bind_ok, if_neg (by simp [hs])]
  rfl

/-- A push that does not fit sets `STOP` and fails the command (R292). -/
theorem pushWin_of_overflow (hover : s.tc.outLimit < s.tc.outCur + n) :
    ((push s.dec.win P.decWinSize .winRange a n s).bind fun _ t => if t.tc.stop then raise P .dec .push t else f t) =
      raise P .dec .push { s with tc := { s.tc with stop := true } } := by
  unfold push
  rw [if_neg (by simp [hs]), if_neg (Nat.not_lt.2 hin), if_pos hover, Res.bind_ok, if_pos rfl]

end Push

/-! ### FLUSH_IF_FULL (R270) -/

theorem flushIfFull_below (h : s.dec.wpos < 8192) : flushIfFull P s = .ok () (s.setDstate .token) := if_pos h

section Full

variable (hs : s.tc.stop = false) (hfull : 8192 ≤ s.dec.wpos) (hin : s.dec.wpos ≤ P.decWinSize)
include hs hfull hin

theorem flushIfFull_of_fits (hfit : s.tc.outCur + 4096 ≤ s.tc.outLimit) :
    flushIfFull P s = .ok () ((s.winPushed 4096 4096).winSlid 4096) := by
  unfold flushIfFull
  rw [if_neg (Nat.not_lt.2 hfull), if_neg (Nat.not_lt.2 hin), pushWin_of_fits _ hs (hfull.trans hin) hfit]
  rfl

theorem flushIfFull_of_overflow (hover : s.tc.outLimit < s.tc.outCur + 4096) :
    flushIfFull P s = raise P .dec .push { s with tc := { s.tc with stop := true } } := by
  unfold flushIfFull
  rw [if_neg (Nat.not_lt.2 hfull), if_neg (Nat.not_lt.2 hin), pushWin_of_overflow _ hs (hfull.trans hin) hover]

end Full

/-- Settles O34: the cursor and the room left decide between the three cases. -/
theorem flushIfFull_spec : Obligations.FlushIfFull := by
  intro P s hs wwin wout hin
  refine ⟨flushIfFull_below, fun hfull hfit => ?_, fun hfull => flushIfFull_of_overflow hs hfull hin⟩
  refine ⟨_, flushIfFull_of_fits hs hfull hin hfit, fun a => ?_, read_winSlid_win (s := s.winPushed 4096 4096) wwin 4096,
    winSlid_winPushed_frame 4096 4096 s⟩
  rw [winSlid_hostOut, read_winPushed_hostOut wout]

/-! ### FINAL_FLUSH (R271) -/

theorem finalFlush_empty (h : s.dec.wpos ≤ 4096) : finalFlush P s = .ok () (s.complete .dec) := if_pos h

section Rest

variable (hs : s.tc.stop = false) (hrest : 4096 < s.dec.wpos) (hin : s.dec.wpos ≤ P.decWinSize)
include hs hrest hin

theorem finalFlush_of_fits (hfit : s.tc.outCur + (s.dec.wpos - 4096) ≤ s.tc.outLimit) :
    finalFlush P s = .ok () ((s.winPushed 4096 (s.dec.wpos - 4096)).complete .dec) :=
  (if_neg (Nat.not_le.2 hrest)).trans
    (pushWin_of_fits _ hs ((Nat.add_sub_cancel' hrest.le).trans_le hin) hfit)

theorem finalFlush_of_overflow (hover : s.tc.outLimit < s.tc.outCur + (s.dec.wpos - 4096)) :
    finalFlush P s = raise P .dec .push { s with tc := { s.tc with stop := true } } :=
  (if_neg (Nat.not_le.2 hrest)).trans
    (pushWin_of_overflow _ hs ((Nat.add_sub_cancel' hrest.le).trans_le hin) hover)

end Rest

/-- Settles O35: the bytes past 4096 and the room left decide between the three cases. -/
theorem finalFlush_spec : Obligations.FinalFlush := by
  intro P s hs wout hin
  refine ⟨finalFlush_empty, fun hrest hfit => ?_, fun hrest => finalFlush_of_overflow hs hrest hin⟩
  refine ⟨(s.winPushed 4096 (s.dec.wpos - 4096)).hostOut, ?_, read_winPushed_hostOut wout 4096 _⟩
  rw [← winPushed_frame, finalFlush_of_fits hs hrest hin hfit]

end Sys2Proof.Machine
end

section
/-! SUPPORT. What a step of DEC leads to, put together from what each row and each flush leads to (R261 to R271). -/

namespace Sys2Proof.Machine

variable {E : State → Prop} {r s t : State}

/-- `t` is `s` with some of its stream taken, in whichever state of R261 the fetch passes through on the way. -/
def FetchedFrom (s t : State) : Prop := SameButReader (s.setDstate t.dec.dstate) t

theorem FetchedFrom.refl (s : State) : FetchedFrom s s := rfl

theorem FetchedFrom.read (h : FetchedFrom r s) (h' : SameButReader s t) : FetchedFrom r t := by
  have hd : t.dec.dstate = s.dec.dstate := congrArg (·.dec.dstate) h'
  unfold FetchedFrom
  rw [hd]
  exact h.trans h'

theorem FetchedFrom.setDstate (h : FetchedFrom r s) (d : DState) : FetchedFrom r (s.setDstate d) := congrArg (State.setDstate d) h

/-- `E` holds of what every row of DEC answers in `t`, and of every exception taken there (R262 to R268). -/
structure RowsLeadTo (E : State → Prop) (t : State) : Prop where
  fail           : ∀ c, E (t.fail standard .dec c)
  takeByteZero   : ∀ b, NextHolds E (takeByteZero b t)
  checkHeader    : ∀ w, NextHolds E (checkHeader standard w t)
  storeLiteral   : ∀ b, NextHolds E (storeLiteral standard b t)
  setCopyLength  : ∀ c e, NextHolds E (setCopyLength standard c e t)
  execEnd        : NextHolds E (execEnd t)
  copyFromOffset : ∀ c low, NextHolds E (copyFromOffset standard c low t)

section Fetch

variable (hE : ∀ t, FetchedFrom r t → RowsLeadTo E t) (hs : FetchedFrom r s)
include hE hs

theorem FetchedFrom.fetchHeader : (fetchHeader standard s).Holds (fun i t => NextHolds E (exec i t)) E := by
  refine (SameButReader.refl s).nextByte.bind fun o t ht => ?_
  have hrows := hE t (hs.read ht)
  cases o with
  | none => exact hrows.fail .headerShort
  | some b =>
    show NextHolds E (exec (if t.dec.hdrByte0.isNone then .hdr0 b else .hdr1 b) t)
    split_ifs
    · exact hrows.takeByteZero b
    · exact hrows.checkHeader b

theorem FetchedFrom.starved (t : State) (ht : ReadFrom s t) : E (t.fail standard .dec .starved) :=
  (hE t (hs.read ht.frame)).fail .starved

variable (h : RowReady standard s)
include h

theorem FetchedFrom.fetchLiteral : (fetchLiteral standard s).Holds (fun i t => NextHolds E (exec i t)) E :=
  (h.readFrom.readBits (hs.starved hE) 8).bind fun _ t ht => (hE t (hs.read ht.1.frame)).storeLiteral _

theorem FetchedFrom.fetchLength : (fetchLength standard s).Holds (fun i t => NextHolds E (exec i t)) E := by
  refine (h.readFrom.decodeLen (hs.starved hE)).bind ?_
  rintro ⟨c, e⟩ t ⟨ht, -⟩
  have hrows := hE t (hs.read ht.frame)
  dsimp only
  cases hi : lenInstr standard.tables c e with
  | none => trivial
  | some i =>
    show NextHolds E (exec i t)
    rcases lenInstr_eq_some hi with ⟨-, rfl⟩ | ⟨-, -, hexec⟩
    · exact hrows.execEnd
    · rw [hexec]
      exact hrows.setCopyLength c _

theorem FetchedFrom.fetchOffset : (fetchOffset standard s).Holds (fun i t => NextHolds E (exec i t)) E := by
  refine (h.readFrom.decodeOff (hs.starved hE) _).bind ?_
  rintro ⟨c, v⟩ t ht
  dsimp only
  cases hi : (lowOf (lowWidth t.dec.tLen t.hdr.wsize) v).bind (distInstr c) with
  | none => trivial
  | some i =>
    obtain ⟨low, -, hrow⟩ := Option.bind_eq_some_iff.1 hi
    show NextHolds E (exec i t)
    rw [(distInstr_eq_some hrow).2]
    exact (hE t (hs.read ht.frame)).copyFromOffset c low

theorem FetchedFrom.fetchToken : (fetchToken standard s).Holds (fun i t => NextHolds E (exec i t)) E := by
  refine (h.readFrom.readBits (hs.starved hE) 1).bind ?_
  rintro sel t ⟨ht, -⟩
  have hrow := h.of_readFrom ht
  split_ifs
  · exact ((hs.read ht.frame).setDstate .literal).fetchLiteral hE (hrow.setDstate .literal)
  · exact ((hs.read ht.frame).setDstate .copy).fetchLength hE (hrow.setDstate .copy)

end Fetch

/-- A step of DEC takes bits and executes a row where they are taken, or is a flush (R261). -/
theorem nextHolds_step_of_rows (h : DecBusy standard s) (hrows : ∀ t, FetchedFrom s t → RowsLeadTo E t)
    (hflush : s.dec.dstate = .flush → NextHolds E (flushIfFull standard s).outcome)
    (heof : s.dec.dstate = .eof → NextHolds E (finalFlush standard s).outcome) : NextHolds E (step s) := by
  have hs := FetchedFrom.refl s
  refine nextHolds_step_dec h.running ?_
  unfold decFetch
  cases hd : s.dec.dstate with
  | idle => trivial
  | header => exact (hs.fetchHeader hrows).runs
  | token => exact (hs.fetchToken hrows (h.rowReady (by rw [hd]; decide) (by rw [hd]; decide))).runs
  | literal => exact (hs.fetchLiteral hrows (h.rowReady (by rw [hd]; decide) (by rw [hd]; decide))).runs
  | copy =>
    have hready := h.rowReady (by rw [hd]; decide) (by rw [hd]; decide)
    dsimp only
    split_ifs
    · exact (hs.fetchOffset hrows hready).runs
    · exact (hs.fetchLength hrows hready).runs
  | flush => exact hflush hd
  | eof => exact heof hd
  | done => trivial
  | fail => trivial

end Sys2Proof.Machine
end

section
/-! SUPPORT. DEC keeps its window (R269): a row writes at the cursor or above it, and FLUSH_IF_FULL leaves below 4096 the bytes it
pushed. -/

namespace Sys2Proof.Machine

variable {P : Config.Params} {s t : State}

/-- With no history there is nothing below the cursor to speak of. -/
theorem windowOk_of_hist_eq_zero (hh : t.dec.hist = 0) (hw : t.dec.wpos = 4096) : WindowOk t := by
  intro j hj hhist
  omega

/-- The command has ended, or the window is as R269 says. -/
def EndedOrWindow (t : State) : Prop := t.busy = false ∨ WindowOk t

/-- What a row asks of the window of the state it is executed in. -/
structure WindowReady (s : State) : Prop where
  window : WindowOk s
  wf     : s.dec.win.wf = true
  wpos   : 4096 ≤ s.dec.wpos

theorem WindowReady.of_fetchedFrom (h : WindowReady s) (ht : FetchedFrom s t) : WindowReady t := by
  unfold FetchedFrom at ht
  rw [ht]
  exact ⟨h.window, h.wf, h.wpos⟩

/-- `n` bytes written from the cursor on, which moves over them, leave the bytes below 4096 alone, and `HIST` reaches back no
further than before (R264, R268). -/
theorem WindowReady.append {n : Nat} (h : WindowReady s) (ht : t.tc = s.tc) (ho : t.hostOut = s.hostOut)
    (hwin : ∀ a < s.dec.wpos, t.dec.win.read a = s.dec.win.read a) (hw : t.dec.wpos = s.dec.wpos + n)
    (hh : t.dec.hist = min (s.dec.hist + n) 4096) : WindowOk t := by
  intro j hj hhist
  have hlo := h.wpos
  rw [hwin j (by omega), ht, ho]
  exact h.window j hj (by omega)

/-- LIT faults, or writes at the cursor. -/
theorem WindowReady.storeLiteral (h : WindowReady s) (b : Byte) : NextHolds EndedOrWindow (storeLiteral P b s) := by
  by_cases hw : s.dec.wpos < P.decWinSize
  · rw [storeLiteral_eq b hw]
    refine .inr (h.append (n := 1) rfl rfl (fun a ha => ?_) rfl rfl)
    rw [Memory.read_write h.wf, if_neg ha.ne]
  · unfold Machine.storeLiteral
    rw [if_pos (Nat.not_lt.1 hw)]
    trivial

/-- An offset row ends the command, faults, or writes from the cursor on. -/
theorem WindowReady.copyFromOffset (h : WindowReady s) (c : Nat) (low : Low) :
    NextHolds EndedOrWindow (copyFromOffset P c low s) := by
  by_cases hh : s.dec.hist < offsetOf c low + 1
  · rw [copyFromOffset_beforeStart hh]
    exact .inl (fail_busy _ _ _ _)
  by_cases hr : s.dec.wpos < offsetOf c low + 1 ∨ P.decWinSize < s.dec.wpos + s.dec.tLen
  · unfold Machine.copyFromOffset copyExec
    rw [if_neg hh, if_pos hr]
    trivial
  · rw [copyFromOffset_eq (by omega) (by omega) (by omega)]
    exact .inr (h.append rfl rfl (fun a ha => (moveBytes_frame _ _ _ _ h.wf).2 a (.inl ha)) rfl rfl)

/-- An accepted header empties the history. -/
theorem endedOrWindow_checkHeader (w : Byte) (s : State) : NextHolds EndedOrWindow (checkHeader P w s) := by
  unfold checkHeader
  dsimp only
  split_ifs
  · exact .inl (fail_busy _ _ _ _)
  · exact .inl (fail_busy _ _ _ _)
  · exact .inr (windowOk_of_hist_eq_zero rfl rfl)

theorem WindowReady.rowsLeadTo (h : WindowReady s) : RowsLeadTo EndedOrWindow s where
  fail _ := .inl (fail_busy _ _ _ _)
  takeByteZero _ := .inr h.window
  checkHeader w := endedOrWindow_checkHeader w s
  storeLiteral b := h.storeLiteral b
  setCopyLength _ _ := .inr h.window
  execEnd := .inr h.window
  copyFromOffset c low := h.copyFromOffset c low

/-- After the slide the bytes below 4096 are those just pushed, the last of the output pushed (R269, R270). -/
theorem windowOk_flushed (wwin : s.dec.win.wf = true) (wout : s.hostOut.wf = true) (hfull : 8192 ≤ s.dec.wpos) :
    WindowOk ((s.winPushed 4096 4096).winSlid 4096) := by
  intro j hj _
  have hslid : j < s.dec.wpos - 4096 := by omega
  have hwin := read_winSlid_win (s := s.winPushed 4096 4096) wwin 4096 j
  rw [winPushed_dec, if_pos hslid] at hwin
  have hpushed : 4096 + (s.tc.outCur + 4096 + j - 4096 - s.tc.outCur) = j + 4096 := by omega
  rw [hwin, winSlid_tc, winPushed_tc_outCur, winSlid_hostOut, read_winPushed_hostOut wout, if_pos (by omega), hpushed]

theorem DecBusy.endedOrWindow_flushIfFull (h : DecBusy standard s) (hs : WindowOk s) :
    NextHolds EndedOrWindow (Machine.flushIfFull standard s).outcome := by
  have hin : s.dec.wpos ≤ standard.decWinSize := h.bounded.widths.wposHi.trans (by decide)
  by_cases hfull : s.dec.wpos < 8192
  · rw [flushIfFull_below hfull]
    exact .inr hs
  · have hfull := Nat.not_lt.1 hfull
    by_cases hfit : s.tc.outCur + 4096 ≤ s.tc.outLimit
    · rw [flushIfFull_of_fits h.dec.stop hfull hin hfit]
      exact .inr (windowOk_flushed h.bounded.memories.win h.bounded.memories.hostOut hfull)
    · rw [flushIfFull_of_overflow h.dec.stop hfull hin (Nat.not_le.1 hfit)]
      exact .inl (fail_busy _ _ _ _)

theorem DecBusy.endedOrWindow_step (h : DecBusy standard s) (hs : WindowOk s) : NextHolds EndedOrWindow (step s) := by
  have hready : WindowReady s := ⟨hs, h.bounded.memories.win, h.bounded.widths.wposLo⟩
  refine nextHolds_step_of_rows h (fun t ht => (hready.of_fetchedFrom ht).rowsLeadTo) (fun _ => h.endedOrWindow_flushIfFull hs)
    fun _ => ?_
  exact (ended_finalFlush s).outcome.mono fun _ ht => .inl ht.1

/-- Between commands DEC can only be started, with no history. -/
theorem windowOk_step_idle (hb : s.busy = false) (hst : step s = .next t) (hd : t.running .dec) : WindowOk t := by
  rcases step_idle_cases hb with he | he | he | he | ⟨r, he⟩ <;> rw [he] at hst <;> cases hst
  · exact absurd (hb.symm.trans hd.1) (by decide)
  · exact absurd ((fail_busy _ _ _ _).symm.trans hd.1) (by decide)
  · exact (not_running_both ⟨hd.1, rfl⟩ hd).elim
  · exact windowOk_of_hist_eq_zero rfl rfl

/-- Settles O50: a step of DEC ends the command or keeps its window, one of CMP leaves `CMD` at 1, and a command starts with no
history. -/
theorem stepKeepsTheWindow : Obligations.StepKeepsTheWindow := by
  intro s t h hwin hst htd
  rcases h.cases with hb | hc | hd
  · exact windowOk_step_idle hb hst htd
  · have hk := cmpKept_step hc.running
    rw [hst] at hk
    exact (not_running_both ⟨htd.1, (hk.command.cmd htd.1).trans hc.running.2⟩ htd).elim
  · have hw := hd.endedOrWindow_step (hwin hd.running)
    rw [hst] at hw
    rcases hw with hended | hw
    · exact absurd (hended.symm.trans htd.1) (by decide)
    · exact hw

end Sys2Proof.Machine
end

section
/-! SUPPORT. The Transfer Harness: what PULL and PUSH move (R291, R292), what COMPRESS answers to an illegal window size (R294), and
the values and moments for which `CMD` has no rule (R296, R299). -/

namespace Sys2Proof.Machine

variable {s : State}

/-! ### PULL (R291) -/

/-- With room for a byte, a pull delivers nothing exactly when the input is used up. -/
theorem pullCount_eq_zero_iff {max : Nat} (hmax : 1 ≤ max) : pullCount s max = 0 ↔ s.tc.inLen ≤ s.tc.inCur := by
  unfold pullCount
  omega

/-- Settles O18: PULL's two results by the rules of `copyCells` and of the state; no rule of PULL reads `STOP`. -/
theorem pullDeliversWhatIsLeft : Obligations.PullDeliversWhatIsLeft := by
  intro m a max s w hmax
  refine ⟨rfl, (pull_read w a max s).2, pull_state m a max s, pullCount_eq_zero_iff hmax, fun b => ⟨rfl, rfl⟩,
    fun hlen hcur h4096 => ?_⟩
  have hn : pullCount s max = 904 := by rw [pullCount, hlen, hcur, h4096]; decide
  refine ⟨hn, (pullCount_eq_zero_iff hmax).2 ?_⟩
  rw [pull_state]
  show s.tc.inLen ≤ s.tc.inCur + pullCount s max
  omega

/-! ### PUSH (R292) -/

section Push

variable (m : Memory) {size : Nat} (f : Fault) {a n : Nat}

theorem push_of_stop (hs : s.tc.stop = true) : push m size f a n s = .ok () s := if_pos hs

variable (hs : s.tc.stop = false) (hin : a + n ≤ size)
include hs hin

theorem push_of_overflow (hover : s.tc.outLimit < s.tc.outCur + n) :
    push m size f a n s = .ok () { s with tc := { s.tc with stop := true } } := by
  unfold push
  rw [if_neg (by simp [hs]), if_neg (Nat.not_lt.2 hin), if_pos hover]

theorem push_of_fits (hfit : s.tc.outCur + n ≤ s.tc.outLimit) :
    push m size f a n s = .ok () { s with
      tc := { s.tc with outCur := s.tc.outCur + n }
      hostOut := copyCells m a s.hostOut s.tc.outCur n
      xfers := .push n :: s.xfers } := by
  unfold push
  rw [if_neg (by simp [hs]), if_neg (Nat.not_lt.2 hin), if_neg (Nat.not_lt.2 hfit)]

end Push

/-- Settles O19: the three branches of PUSH; a chunk that fits is read back cell by cell. -/
theorem pushIsAllOrNothing : Obligations.PushIsAllOrNothing := by
  intro m size f a n s w _ hin
  refine ⟨push_of_stop m f, fun hs => push_of_overflow m f hs hin, fun hs hfit => ?_⟩
  exact ⟨_, push_of_fits m f hs hin hfit, (copyCells_spec m n a s.hostOut s.tc.outCur w).2, rfl⟩

/-! ### The values of `CMD` without a command (R296) -/

theorem hostSetCmd_zero (P : Config.Params) (h : s.accepts = true) : hostSetCmd P 0 s = .next s := if_pos h

theorem hostSetCmd_three (P : Config.Params) (h : s.accepts = true) : hostSetCmd P 3 s = .refused .reservedCommand := if_pos h

theorem step_idle_zero (hb : s.busy = false) (hc : s.cr.cmd = 0) : step s = .next s := by
  rw [step_idle hb, idleFetch, hc]
  rfl

theorem step_idle_three (hb : s.busy = false) (hc : s.cr.cmd = 3) : step s = .refused .reservedCommand := by
  rw [step_idle hb, idleFetch, hc]
  rfl

/-! ### While a command runs (R299) -/

section Busy

variable (hb : s.busy = true)
include hb

theorem accepts_of_busy : s.accepts = false := by
  rw [State.accepts, hb]
  rfl

theorem hostWrite_busy (t : State) : hostWrite s t = .refused .hostWhileBusy := by
  rw [hostWrite, accepts_of_busy hb]
  rfl

theorem hostWriteLength_busy (P : Config.Params) (n : Nat) (t : State) : hostWriteLength P n s t = .refused .hostWhileBusy := by
  rw [hostWriteLength, accepts_of_busy hb, Bool.false_and, hostWrite_busy hb]
  rfl

theorem hostSetCmd_busy (P : Config.Params) (c : BitVec 2) : hostSetCmd P c s = .refused .hostWhileBusy := by
  rw [hostSetCmd, accepts_of_busy hb]
  rfl

theorem hostIssue_busy (P : Config.Params) (c : BitVec 2) (input : List Byte) (w : Byte) (n : Nat) :
    hostIssue P c input w n s = .refused .hostWhileBusy := by
  rw [hostIssue, accepts_of_busy hb]
  rfl

theorem exec_compress_busy : exec .compress s = .refused .hostWhileBusy := if_pos hb

theorem exec_decompress_busy : exec .decompress s = .refused .hostWhileBusy := if_pos hb

end Busy

/-- Settles O20: between commands by the value in `CMD`; during one, each write and each command tests `BUSY` first. -/
theorem otherCommandValuesAndWritesWhileBusy : Obligations.OtherCommandValuesAndWritesWhileBusy := by
  refine ⟨fun P s h => ?_, fun s hb => step_idle_three hb rfl, fun P s hb => ?_⟩
  · obtain ⟨hb, hc⟩ := accepts_iff.1 h
    exact ⟨hostSetCmd_zero P h, step_idle_zero hb hc, hostSetCmd_three P h⟩
  · exact ⟨hostSetCmd_busy hb P, fun w => hostWrite_busy hb _, fun n => hostWriteLength_busy hb P n _,
      fun n => hostWriteLength_busy hb P n _, fun a b => hostWrite_busy hb _, fun a b => hostWrite_busy hb _,
      hostIssue_busy hb P, exec_compress_busy hb, exec_decompress_busy hb⟩

/-! ### COMPRESS with an illegal window size (R294) -/

theorem exec_compress_illegal (hb : s.busy = false) (hw : legalWsize s.cr.wsizeCfg = false) :
    exec .compress s = .next ((s.startCommand 1).fail standard .cmp .badWsizeCfg) := by
  rcases runCompress_cases standard s with ⟨hb', -⟩ | ⟨-, hwf, -⟩ | ⟨-, -, hl, -⟩ | ⟨-, -, -, he⟩
  · exact absurd (hb'.symm.trans hb) (by decide)
  · exact absurd (standard_wf.symm.trans hwf) (by decide)
  · exact absurd (hl.symm.trans hw) (by decide)
  · exact he

/-- Settles O30: the exception is taken in the state of the command's start, before any operation of CMP. -/
theorem compressRejectsAnIllegalWindowSize : Obligations.CompressRejectsAnIllegalWindowSize := by
  intro s hb hw
  refine ⟨_, exec_compress_illegal hb (Bool.eq_false_iff.2 (mt legalWsize_iff.1 hw)), ?_⟩
  rw [fail_cr_status]
  exact ⟨statusDone_fail _ _, statusSuccess_fail _ _, by decide, by decide, rfl, rfl, rfl, rfl, rfl, rfl⟩

end Sys2Proof.Machine
end

section
/-! SUPPORT. Power-on reset (R340): no command runs and none is written, so the first step waits. -/

namespace Sys2Proof.Machine

theorem busy_reset : State.reset.busy = false := rfl

theorem step_reset : step State.reset = .next State.reset := step_idle_zero busy_reset rfl

/-- Settles O44: the reset values, and a step between commands with `CMD` = 0. -/
theorem powerOnReset : Obligations.PowerOnReset := ⟨rfl, rfl, rfl, rfl, busy_reset, step_reset⟩

end Sys2Proof.Machine
end
